-- ==== Sys2Proof/Word.lean ====
section
/-!
DEFINITION. The words of FPD (spec/00_scope.md R6): every quantity is an unsigned bit vector or a natural number.
-/

namespace Sys2Proof

/-- `u4` of R6: the low nibble of a short message's first byte. -/
abbrev Nibble := BitVec 4

/-- `u8` of R6: one byte of a stream. -/
abbrev Byte := BitVec 8

/-- `u16` of R6: one `decode14` result. -/
abbrev Half := BitVec 16

/-- A byte whose top nibble is `hi` and whose low nibble is `lo` (R6: `b[7:4]`, `b[3:0]`). -/
abbrev Byte.ofNibbles (hi lo : Nibble) : Byte := hi ++ lo

end Sys2Proof
end

