-- ==== Sys2Proof/Config.lean ====
section
/-!
DEFINITION. What an implementation fixes: the OPEN parameters of spec/00_scope.md R5, and the free values, which have no
body, so that no proof can see them.
-/

namespace Sys2Proof

/-- The OPEN parameters of R5, "arguments of the model, fixed for a whole execution, not registers" (R19). State carries
them so that every statement holds for all of their values (log entry 3). -/
structure Params where
  /-- `SYSEX_MAX`: the bound on the sysex accumulator; `none` is "unbounded". -/
  sysexMax : Option Nat
  /-- `UNMAPPED`: the analog-mapping entry that denotes "not analog-capable". -/
  unmapped : Byte
  deriving DecidableEq, Repr

/-- The defaults R5 gives: unbounded, and 127. -/
def Params.default : Params := { sysexMax := none, unmapped := 127 }

namespace Config

/-- FREE VALUE (spec/93_implementation_defined.md U16, spec/91_not_in_source.md N23): whether the `n`-th failed cache-writing
encoder operation leaves the new cache value (true) or the old one (false). Log entry 9. -/
opaque failedWriteKeepsNew : Nat → Bool

/-- FREE VALUE (spec/40_wirecodec.md R83: "the function is not defined on it"): what `unpack_byte_stream` returns for a wire
list of odd length. Log entry 8. -/
opaque unpackOdd : List Byte → List Half

end Config

end Sys2Proof
end

