-- ==== Sys2Proof/Machine/Wire.lean ====
section
/-!
DEFINITION. Every marker, command and subtype byte of the wire format, each named once (spec/30_encoding.md R56, R58;
spec/00_scope.md R5; spec/93_implementation_defined.md U17). The literals are unaudited (R2).
-/

namespace Sys2Proof.Wire

/-- The sysex start marker (R5). -/
def sysexStart : Byte := 0xF0
/-- The sysex end marker (R5). -/
def sysexEnd : Byte := 0xF7
/-- The capability list terminator `CAP_END` (R5, R123). -/
def capEnd : Byte := 127
/-- `PIN_INDEX_MAX` (R5). -/
def pinIndexMax : Nat := 127
/-- The first byte value that is a whole-byte command (R54). -/
def wholeByteFrom : Byte := 0xF0

/-! Command bytes of short messages (R56). -/
def cmdDigital : Byte := 0x90
def cmdReportAnalog : Byte := 0xC0
def cmdReportDigital : Byte := 0xD0
def cmdAnalog : Byte := 0xE0
def cmdPinMode : Byte := 0xF4
def cmdVersion : Byte := 0xF9

/-! Sysex subtype bytes (R58). -/
def subAmapQuery : Byte := 0x69
def subAmap : Byte := 0x6A
def subCapsQuery : Byte := 0x6B
def subCaps : Byte := 0x6C
def subPinStateQuery : Byte := 0x6D
def subPinState : Byte := 0x6E
def subI2cRequest : Byte := 0x76
def subI2cReply : Byte := 0x77
def subI2cConfig : Byte := 0x78
def subFirmware : Byte := 0x79
def subSamplingInterval : Byte := 0x7A

/-- The eleven subtype bytes the document names (R58). -/
def namedSubtypes : List Byte :=
  [subAmapQuery, subAmap, subCapsQuery, subCaps, subPinStateQuery, subPinState,
   subI2cRequest, subI2cReply, subI2cConfig, subFirmware, subSamplingInterval]

end Sys2Proof.Wire
end

