-- ==== Sys2Proof/Syntax.lean ====
section
/-!
DEFINITION. The syntax of FPD: input symbols (spec/10_state.md R22), the stages of the opcode table
(spec/30_encoding.md R65), and one constructor of Instr per row of spec/opcode_table.json.
-/

namespace Sys2Proof

/-- The input alphabet (R22): a byte delivered by the transport, or any way a transport read can fail. -/
inductive Symbol where
  | byte (b : Byte)
  | err
  deriving DecidableEq, Repr

/-- The stages of opcode_table.json (R65): what a row's `match` and `mask` apply to. -/
inductive Stage where
  | idleByte | insysexByte | inshortByte | err | shortFirst | sysexSubtype | codec | tx
  deriving DecidableEq, Repr

/-- What decides how the next input symbol is interpreted (R12: "the pair (`rs`'s case, `cnt`)"), with whether the
accumulator is at `SYSEX_MAX` (R110). A halted reader has no phase. -/
inductive Phase where
  | idle
  | inSysex (full : Bool)
  | inShort (last : Bool)
  deriving DecidableEq, Repr

/-- A field of an outbound sysex frame (R156): one wire byte given as it is, or a multi-byte field given by its value, which
"uses `encode7pair`" (R156, R160). -/
inductive TxField where
  | byte (b : Byte)
  | wide (value : Nat)
  deriving DecidableEq, Repr

/-- The instructions: input symbols consumed by the reader, completed messages handed to the decoder, codec functions
(the mapping of 00_scope.md section 1), and the companion encoder's operations (R151 to R161). -/
inductive Instr where
  -- stages idleByte, insysexByte, inshortByte, err: one input symbol (spec/41_framereader.md)
  | sysexStart
  | shortStart (b : Byte)
  | sysexEnd
  | sysexData (b : Byte)
  | sysexOverflow (b : Byte)
  | shortData0 (b : Byte)
  | shortData1 (b : Byte)
  | errIdle
  | errInSysex
  | errInShort
  -- stage shortFirst, channel form: low nibble of the first byte, then the two data bytes (R51)
  | short00 (chan : Nibble) (d0 d1 : Byte)
  | short10 (chan : Nibble) (d0 d1 : Byte)
  | short20 (chan : Nibble) (d0 d1 : Byte)
  | short30 (chan : Nibble) (d0 d1 : Byte)
  | short40 (chan : Nibble) (d0 d1 : Byte)
  | short50 (chan : Nibble) (d0 d1 : Byte)
  | short60 (chan : Nibble) (d0 d1 : Byte)
  | short70 (chan : Nibble) (d0 d1 : Byte)
  | short80 (chan : Nibble) (d0 d1 : Byte)
  | digital (chan : Nibble) (d0 d1 : Byte)
  | shortA0 (chan : Nibble) (d0 d1 : Byte)
  | shortB0 (chan : Nibble) (d0 d1 : Byte)
  | reportAnalog (chan : Nibble) (d0 d1 : Byte)
  | reportDigital (chan : Nibble) (d0 d1 : Byte)
  | analog (chan : Nibble) (d0 d1 : Byte)
  -- stage shortFirst, whole-byte form: the two data bytes (R51)
  | shortF1 (d0 d1 : Byte)
  | shortF2 (d0 d1 : Byte)
  | shortF3 (d0 d1 : Byte)
  | pinMode (d0 d1 : Byte)
  | shortF5 (d0 d1 : Byte)
  | shortF6 (d0 d1 : Byte)
  | shortF7 (d0 d1 : Byte)
  | shortF8 (d0 d1 : Byte)
  | version (d0 d1 : Byte)
  | shortFA (d0 d1 : Byte)
  | shortFB (d0 d1 : Byte)
  | shortFC (d0 d1 : Byte)
  | shortFD (d0 d1 : Byte)
  | shortFE (d0 d1 : Byte)
  | shortFF (d0 d1 : Byte)
  -- stage sysexSubtype: the payload `acc[1:]` (R52)
  | firmware (p : List Byte)
  | caps (p : List Byte)
  | amap (p : List Byte)
  | pinState (p : List Byte)
  | i2cReply (p : List Byte)
  | sysexAmapQuery (p : List Byte)
  | sysexCapsQuery (p : List Byte)
  | sysexPinStateQuery (p : List Byte)
  | sysexI2cRequest (p : List Byte)
  | sysexI2cConfig (p : List Byte)
  | sysexSamplingInterval (p : List Byte)
  | sysexOther (sub : Byte) (p : List Byte)
  | sysexEmpty
  -- stage codec: pure functions and their operands (spec/40_wirecodec.md)
  | decode14 (lsb msb : Byte)
  | encode7pair (value : Nat)
  | packByteStream (bytes : List Byte)
  | unpackByteStream (wire : List Byte)
  | decodeLe7 (bytes : List Byte)
  | portOfBitOf (pin : Byte)
  -- stage tx: the companion encoder's operations (spec/44_encoder_frames.md)
  | txSetPinMode (pin mode : Nat)
  | txWriteDigital (pin level : Byte)
  | txWriteAnalog (pin : Byte) (value : Nat)
  | txReportAnalog (pin enable : Byte)
  | txReportDigital (port enable : Byte)
  | txCapsQuery
  | txAmapQuery
  | txI2cRequest (address regflags : List TxField) (payload : List Byte)
  | txI2cConfig (fields : List TxField)
  | txSamplingInterval (fields : List TxField)
  | txPinStateQuery (fields : List TxField)
  deriving DecidableEq, Repr

end Sys2Proof
end

