-- ==== Sys2Proof/WellFormed.lean ====
section
/-!
DEFINITION. Which terms of Instr stand for an instruction of the spec: the operand ranges and the wire format's own
constraints. A term that is not well formed is no row's instruction, or is out of an operation's stated range.
-/

namespace Sys2Proof

/-- A sysex body the frame reader can accumulate: no byte of it is the end marker (R52, R103). -/
def bodyOk (p : List Byte) : Bool := p.all fun b => decide (b ≠ Wire.sysexEnd)

/-- The field is in protocol (R156): a byte with bit 7 clear, or a value `encode7pair` supports (R81). -/
def TxField.ok : TxField → Bool
  | .byte b => decide (b < 0x80)
  | .wide value => decide (value ≤ 16383)

/-- Every field is in protocol (R156). -/
def fieldsOk (fs : List TxField) : Bool := fs.all TxField.ok

/-- Well-formedness, one arm per constructor. -/
def Instr.wf : Instr → Bool
  | .sysexStart => true
  | .shortStart b => decide (b ≠ Wire.sysexStart)
  | .sysexEnd => true
  | .sysexData b => decide (b ≠ Wire.sysexEnd)
  | .sysexOverflow b => decide (b ≠ Wire.sysexEnd)
  | .shortData0 _ => true
  | .shortData1 _ => true
  | .errIdle => true
  | .errInSysex => true
  | .errInShort => true
  | .short00 _ _ _ => true
  | .short10 _ _ _ => true
  | .short20 _ _ _ => true
  | .short30 _ _ _ => true
  | .short40 _ _ _ => true
  | .short50 _ _ _ => true
  | .short60 _ _ _ => true
  | .short70 _ _ _ => true
  | .short80 _ _ _ => true
  | .digital _ _ _ => true
  | .shortA0 _ _ _ => true
  | .shortB0 _ _ _ => true
  | .reportAnalog _ _ _ => true
  | .reportDigital _ _ _ => true
  | .analog _ _ _ => true
  | .shortF1 _ _ => true
  | .shortF2 _ _ => true
  | .shortF3 _ _ => true
  | .pinMode _ _ => true
  | .shortF5 _ _ => true
  | .shortF6 _ _ => true
  | .shortF7 _ _ => true
  | .shortF8 _ _ => true
  | .version _ _ => true
  | .shortFA _ _ => true
  | .shortFB _ _ => true
  | .shortFC _ _ => true
  | .shortFD _ _ => true
  | .shortFE _ _ => true
  | .shortFF _ _ => true
  | .firmware p => bodyOk p
  | .caps p => bodyOk p
  | .amap p => bodyOk p
  | .pinState p => bodyOk p
  | .i2cReply p => bodyOk p
  | .sysexAmapQuery p => bodyOk p
  | .sysexCapsQuery p => bodyOk p
  | .sysexPinStateQuery p => bodyOk p
  | .sysexI2cRequest p => bodyOk p
  | .sysexI2cConfig p => bodyOk p
  | .sysexSamplingInterval p => bodyOk p
  | .sysexOther sub p => decide (sub ∉ Wire.namedSubtypes) && decide (sub ≠ Wire.sysexEnd) && bodyOk p
  | .sysexEmpty => true
  | .decode14 _ _ => true
  | .encode7pair value => decide (value ≤ 16383)
  | .packByteStream _ => true
  | .unpackByteStream wire => decide (wire.length % 2 = 0)
  | .decodeLe7 _ => true
  | .portOfBitOf pin => decide (pin.toNat ≤ Wire.pinIndexMax)
  | .txSetPinMode _ _ => true
  | .txWriteDigital pin level => decide (pin.toNat ≤ Wire.pinIndexMax) && decide (level.toNat ≤ 1)
  | .txWriteAnalog pin value => decide (pin.toNat ≤ 15) && decide (value ≤ 16383)
  | .txReportAnalog pin enable => decide (pin.toNat ≤ 15) && decide (enable.toNat ≤ 1)
  | .txReportDigital port enable => decide (port.toNat ≤ 15) && decide (enable.toNat ≤ 1)
  | .txCapsQuery => true
  | .txAmapQuery => true
  | .txI2cRequest address regflags _ => fieldsOk address && fieldsOk regflags
  | .txI2cConfig fields => fieldsOk fields
  | .txSamplingInterval fields => fieldsOk fields
  | .txPinStateQuery fields => fieldsOk fields

end Sys2Proof
end

