-- ==== Sys2Proof/Decode.lean ====
section
/-!
DEFINITION. Decoding and encoding (spec/30_encoding.md): which row of the opcode table an input symbol or a completed
message is, total on any bytes, and the words of a well-formed instruction. The table itself is `opcodeRows`.
-/

namespace Sys2Proof

/-! ## Fields of the first byte (R51, R54) -/

/-- `b[7:4]`. -/
def hiNibble (b : Byte) : Nibble := b.extractLsb' 4 4

/-- `b[3:0]`. -/
def loNibble (b : Byte) : Nibble := b.extractLsb' 0 4

/-- Command extraction from the first byte of a short message (R54). -/
def cmdOf (b : Byte) : Byte := if b < Wire.wholeByteFrom then b &&& 0xF0 else b

/-! ## One symbol (R59, R100) -/

/-- The row a symbol is in a phase of the reader: the nine cases of R100, with R110 taking priority over R103. -/
def decodeSymbol : Phase → Symbol → Instr
  | .idle, .byte b => if b = Wire.sysexStart then .sysexStart else .shortStart b
  | .inSysex full, .byte b =>
    if b = Wire.sysexEnd then .sysexEnd else if full then .sysexOverflow b else .sysexData b
  | .inShort last, .byte b => if last then .shortData1 b else .shortData0 b
  | .idle, .err => .errIdle
  | .inSysex _, .err => .errInSysex
  | .inShort _, .err => .errInShort

/-! ## A completed message (R56, R58) -/

/-- The row of a completed short message by its first byte: 15 channel rows, 15 whole-byte rows; `0xF0` starts none. -/
def shortRow (first d0 d1 : Byte) : Option Instr :=
  match hiNibble first with
  | 0x0#4 => some (.short00 (loNibble first) d0 d1)
  | 0x1#4 => some (.short10 (loNibble first) d0 d1)
  | 0x2#4 => some (.short20 (loNibble first) d0 d1)
  | 0x3#4 => some (.short30 (loNibble first) d0 d1)
  | 0x4#4 => some (.short40 (loNibble first) d0 d1)
  | 0x5#4 => some (.short50 (loNibble first) d0 d1)
  | 0x6#4 => some (.short60 (loNibble first) d0 d1)
  | 0x7#4 => some (.short70 (loNibble first) d0 d1)
  | 0x8#4 => some (.short80 (loNibble first) d0 d1)
  | 0x9#4 => some (.digital (loNibble first) d0 d1)
  | 0xA#4 => some (.shortA0 (loNibble first) d0 d1)
  | 0xB#4 => some (.shortB0 (loNibble first) d0 d1)
  | 0xC#4 => some (.reportAnalog (loNibble first) d0 d1)
  | 0xD#4 => some (.reportDigital (loNibble first) d0 d1)
  | 0xE#4 => some (.analog (loNibble first) d0 d1)
  | _ =>
    match loNibble first with
    | 0x0#4 => none
    | 0x1#4 => some (.shortF1 d0 d1)
    | 0x2#4 => some (.shortF2 d0 d1)
    | 0x3#4 => some (.shortF3 d0 d1)
    | 0x4#4 => some (.pinMode d0 d1)
    | 0x5#4 => some (.shortF5 d0 d1)
    | 0x6#4 => some (.shortF6 d0 d1)
    | 0x7#4 => some (.shortF7 d0 d1)
    | 0x8#4 => some (.shortF8 d0 d1)
    | 0x9#4 => some (.version d0 d1)
    | 0xA#4 => some (.shortFA d0 d1)
    | 0xB#4 => some (.shortFB d0 d1)
    | 0xC#4 => some (.shortFC d0 d1)
    | 0xD#4 => some (.shortFD d0 d1)
    | 0xE#4 => some (.shortFE d0 d1)
    | _ => some (.shortFF d0 d1)

/-- The row of a completed sysex message by its accumulated bytes (R58, R120, R121). -/
def sysexRow : List Byte → Instr
  | [] => .sysexEmpty
  | sub :: p =>
    if sub = Wire.subFirmware then .firmware p
    else if sub = Wire.subCaps then .caps p
    else if sub = Wire.subAmap then .amap p
    else if sub = Wire.subPinState then .pinState p
    else if sub = Wire.subI2cReply then .i2cReply p
    else if sub = Wire.subAmapQuery then .sysexAmapQuery p
    else if sub = Wire.subCapsQuery then .sysexCapsQuery p
    else if sub = Wire.subPinStateQuery then .sysexPinStateQuery p
    else if sub = Wire.subI2cRequest then .sysexI2cRequest p
    else if sub = Wire.subI2cConfig then .sysexI2cConfig p
    else if sub = Wire.subSamplingInterval then .sysexSamplingInterval p
    else .sysexOther sub p

/-- Why a byte sequence is no complete message. Raised by `decodeMessage` alone; FPD itself has no illegal encoding
(R60): an incomplete message only waits (R214). -/
inductive DecodeError where
  /-- There is no byte. -/
  | noByte
  /-- A start marker and no end marker after it. -/
  | unterminatedSysex
  /-- A short message's first byte with fewer than two bytes after it. -/
  | missingDataBytes
  /-- The start marker where a short message's first byte is wanted (no path of `decodeMessage` reaches it). -/
  | startMarker
  deriving DecidableEq, Repr

/-- The bytes before the first end marker and the bytes after it (R52, R53). -/
def splitAtEnd : List Byte → Option (List Byte × List Byte)
  | [] => none
  | b :: rest =>
    if b = Wire.sysexEnd then some ([], rest)
    else
      match splitAtEnd rest with
      | some (acc, tail) => some (b :: acc, tail)
      | none => none

/-- The first message of a byte sequence and the bytes left over (R50, R53, R115). -/
def decodeMessage : List Byte → Except DecodeError (Instr × List Byte)
  | [] => .error .noByte
  | b :: rest =>
    if b = Wire.sysexStart then
      match splitAtEnd rest with
      | some (acc, tail) => .ok (sysexRow acc, tail)
      | none => .error .unterminatedSysex
    else
      match rest with
      | d0 :: d1 :: tail =>
        match shortRow b d0 d1 with
        | some i => .ok (i, tail)
        | none => .error .startMarker
      | _ => .error .missingDataBytes

/-! ## Encoding -/

/-- The wire bytes of a sysex message (R52). -/
def sysexBytes (acc : List Byte) : List Byte := Wire.sysexStart :: acc ++ [Wire.sysexEnd]

/-- The wire bytes of a completed message's row (R51, R52); `[]` for a row of another stage. -/
def messageBytes : Instr → List Byte
  | .short00 chan d0 d1 => [Byte.ofNibbles 0x0 chan, d0, d1]
  | .short10 chan d0 d1 => [Byte.ofNibbles 0x1 chan, d0, d1]
  | .short20 chan d0 d1 => [Byte.ofNibbles 0x2 chan, d0, d1]
  | .short30 chan d0 d1 => [Byte.ofNibbles 0x3 chan, d0, d1]
  | .short40 chan d0 d1 => [Byte.ofNibbles 0x4 chan, d0, d1]
  | .short50 chan d0 d1 => [Byte.ofNibbles 0x5 chan, d0, d1]
  | .short60 chan d0 d1 => [Byte.ofNibbles 0x6 chan, d0, d1]
  | .short70 chan d0 d1 => [Byte.ofNibbles 0x7 chan, d0, d1]
  | .short80 chan d0 d1 => [Byte.ofNibbles 0x8 chan, d0, d1]
  | .digital chan d0 d1 => [Byte.ofNibbles 0x9 chan, d0, d1]
  | .shortA0 chan d0 d1 => [Byte.ofNibbles 0xA chan, d0, d1]
  | .shortB0 chan d0 d1 => [Byte.ofNibbles 0xB chan, d0, d1]
  | .reportAnalog chan d0 d1 => [Byte.ofNibbles 0xC chan, d0, d1]
  | .reportDigital chan d0 d1 => [Byte.ofNibbles 0xD chan, d0, d1]
  | .analog chan d0 d1 => [Byte.ofNibbles 0xE chan, d0, d1]
  | .shortF1 d0 d1 => [0xF1, d0, d1]
  | .shortF2 d0 d1 => [0xF2, d0, d1]
  | .shortF3 d0 d1 => [0xF3, d0, d1]
  | .pinMode d0 d1 => [0xF4, d0, d1]
  | .shortF5 d0 d1 => [0xF5, d0, d1]
  | .shortF6 d0 d1 => [0xF6, d0, d1]
  | .shortF7 d0 d1 => [0xF7, d0, d1]
  | .shortF8 d0 d1 => [0xF8, d0, d1]
  | .version d0 d1 => [0xF9, d0, d1]
  | .shortFA d0 d1 => [0xFA, d0, d1]
  | .shortFB d0 d1 => [0xFB, d0, d1]
  | .shortFC d0 d1 => [0xFC, d0, d1]
  | .shortFD d0 d1 => [0xFD, d0, d1]
  | .shortFE d0 d1 => [0xFE, d0, d1]
  | .shortFF d0 d1 => [0xFF, d0, d1]
  | .firmware p => sysexBytes (Wire.subFirmware :: p)
  | .caps p => sysexBytes (Wire.subCaps :: p)
  | .amap p => sysexBytes (Wire.subAmap :: p)
  | .pinState p => sysexBytes (Wire.subPinState :: p)
  | .i2cReply p => sysexBytes (Wire.subI2cReply :: p)
  | .sysexAmapQuery p => sysexBytes (Wire.subAmapQuery :: p)
  | .sysexCapsQuery p => sysexBytes (Wire.subCapsQuery :: p)
  | .sysexPinStateQuery p => sysexBytes (Wire.subPinStateQuery :: p)
  | .sysexI2cRequest p => sysexBytes (Wire.subI2cRequest :: p)
  | .sysexI2cConfig p => sysexBytes (Wire.subI2cConfig :: p)
  | .sysexSamplingInterval p => sysexBytes (Wire.subSamplingInterval :: p)
  | .sysexOther sub p => sysexBytes (sub :: p)
  | .sysexEmpty => sysexBytes []
  | .sysexStart | .shortStart _ | .sysexEnd | .sysexData _ | .sysexOverflow _ | .shortData0 _ | .shortData1 _ => []
  | .errIdle | .errInSysex | .errInShort => []
  | .decode14 _ _ | .encode7pair _ | .packByteStream _ | .unpackByteStream _ | .decodeLe7 _ | .portOfBitOf _ => []
  | .txSetPinMode _ _ | .txWriteDigital _ _ | .txWriteAnalog _ _ | .txReportAnalog _ _ | .txReportDigital _ _ => []
  | .txCapsQuery | .txAmapQuery | .txI2cRequest _ _ _ | .txI2cConfig _ | .txSamplingInterval _ => []
  | .txPinStateQuery _ => []

/-- The input symbols of an instruction: one symbol for a reader row, the whole message for a message row. Codec
functions have no bit pattern and encoder operations are calls (R65), so they have none. -/
def encode : Instr → List Symbol
  | .sysexStart => [.byte Wire.sysexStart]
  | .shortStart b | .sysexData b | .sysexOverflow b | .shortData0 b | .shortData1 b => [.byte b]
  | .sysexEnd => [.byte Wire.sysexEnd]
  | .errIdle | .errInSysex | .errInShort => [.err]
  | i => (messageBytes i).map .byte

/-- The phase in which a reader row is read. -/
def Instr.phase : Instr → Option Phase
  | .sysexStart | .shortStart _ | .errIdle => some .idle
  | .sysexEnd | .sysexData _ | .errInSysex => some (.inSysex false)
  | .sysexOverflow _ => some (.inSysex true)
  | .shortData0 _ | .errInShort => some (.inShort false)
  | .shortData1 _ => some (.inShort true)
  | _ => none

/-! ## The opcode table (R65) -/

/-- The row's name in spec/opcode_table.json. -/
def Instr.mnemonic : Instr → String
  | .sysexStart => "SYSEX_START"
  | .shortStart _ => "SHORT_START"
  | .sysexEnd => "SYSEX_END"
  | .sysexData _ => "SYSEX_DATA"
  | .sysexOverflow _ => "SYSEX_OVERFLOW"
  | .shortData0 _ => "SHORT_DATA0"
  | .shortData1 _ => "SHORT_DATA1"
  | .errIdle => "ERR_IDLE"
  | .errInSysex => "ERR_INSYSEX"
  | .errInShort => "ERR_INSHORT"
  | .short00 _ _ _ => "SHORT_00"
  | .short10 _ _ _ => "SHORT_10"
  | .short20 _ _ _ => "SHORT_20"
  | .short30 _ _ _ => "SHORT_30"
  | .short40 _ _ _ => "SHORT_40"
  | .short50 _ _ _ => "SHORT_50"
  | .short60 _ _ _ => "SHORT_60"
  | .short70 _ _ _ => "SHORT_70"
  | .short80 _ _ _ => "SHORT_80"
  | .digital _ _ _ => "DIGITAL"
  | .shortA0 _ _ _ => "SHORT_A0"
  | .shortB0 _ _ _ => "SHORT_B0"
  | .reportAnalog _ _ _ => "REPORT_ANALOG"
  | .reportDigital _ _ _ => "REPORT_DIGITAL"
  | .analog _ _ _ => "ANALOG"
  | .shortF1 _ _ => "SHORT_F1"
  | .shortF2 _ _ => "SHORT_F2"
  | .shortF3 _ _ => "SHORT_F3"
  | .pinMode _ _ => "PIN_MODE"
  | .shortF5 _ _ => "SHORT_F5"
  | .shortF6 _ _ => "SHORT_F6"
  | .shortF7 _ _ => "SHORT_F7"
  | .shortF8 _ _ => "SHORT_F8"
  | .version _ _ => "VERSION"
  | .shortFA _ _ => "SHORT_FA"
  | .shortFB _ _ => "SHORT_FB"
  | .shortFC _ _ => "SHORT_FC"
  | .shortFD _ _ => "SHORT_FD"
  | .shortFE _ _ => "SHORT_FE"
  | .shortFF _ _ => "SHORT_FF"
  | .firmware _ => "FIRMWARE"
  | .caps _ => "CAPS"
  | .amap _ => "AMAP"
  | .pinState _ => "PINSTATE"
  | .i2cReply _ => "I2CREPLY"
  | .sysexAmapQuery _ => "SYSEX_AMAP_QUERY"
  | .sysexCapsQuery _ => "SYSEX_CAPS_QUERY"
  | .sysexPinStateQuery _ => "SYSEX_PINSTATE_QUERY"
  | .sysexI2cRequest _ => "SYSEX_I2C_REQUEST"
  | .sysexI2cConfig _ => "SYSEX_I2C_CONFIG"
  | .sysexSamplingInterval _ => "SYSEX_SAMPLING_INTERVAL"
  | .sysexOther _ _ => "SYSEX_OTHER"
  | .sysexEmpty => "SYSEX_EMPTY"
  | .decode14 _ _ => "decode14"
  | .encode7pair _ => "encode7pair"
  | .packByteStream _ => "pack_byte_stream"
  | .unpackByteStream _ => "unpack_byte_stream"
  | .decodeLe7 _ => "decode_le7"
  | .portOfBitOf _ => "port_of_bit_of"
  | .txSetPinMode _ _ => "TX_SET_PIN_MODE"
  | .txWriteDigital _ _ => "TX_WRITE_DIGITAL"
  | .txWriteAnalog _ _ => "TX_WRITE_ANALOG"
  | .txReportAnalog _ _ => "TX_REPORT_ANALOG"
  | .txReportDigital _ _ => "TX_REPORT_DIGITAL"
  | .txCapsQuery => "TX_CAPS_QUERY"
  | .txAmapQuery => "TX_AMAP_QUERY"
  | .txI2cRequest _ _ _ => "TX_I2C_REQUEST"
  | .txI2cConfig _ => "TX_I2C_CONFIG"
  | .txSamplingInterval _ => "TX_SAMPLING_INTERVAL"
  | .txPinStateQuery _ => "TX_PINSTATE_QUERY"

/-- The stage of a row (R65). -/
def Instr.stage : Instr → Stage
  | .sysexStart | .shortStart _ => .idleByte
  | .sysexEnd | .sysexData _ | .sysexOverflow _ => .insysexByte
  | .shortData0 _ | .shortData1 _ => .inshortByte
  | .errIdle | .errInSysex | .errInShort => .err
  | .short00 _ _ _ | .short10 _ _ _ | .short20 _ _ _ | .short30 _ _ _ | .short40 _ _ _ | .short50 _ _ _ | .short60 _ _ _ | .short70 _ _ _ => .shortFirst
  | .short80 _ _ _ | .digital _ _ _ | .shortA0 _ _ _ | .shortB0 _ _ _ | .reportAnalog _ _ _ | .reportDigital _ _ _ | .analog _ _ _ => .shortFirst
  | .shortF1 _ _ | .shortF2 _ _ | .shortF3 _ _ | .pinMode _ _ | .shortF5 _ _ | .shortF6 _ _ | .shortF7 _ _ | .shortF8 _ _ => .shortFirst
  | .version _ _ | .shortFA _ _ | .shortFB _ _ | .shortFC _ _ | .shortFD _ _ | .shortFE _ _ | .shortFF _ _ => .shortFirst
  | .firmware _ | .caps _ | .amap _ | .pinState _ | .i2cReply _ | .sysexAmapQuery _ => .sysexSubtype
  | .sysexCapsQuery _ | .sysexPinStateQuery _ | .sysexI2cRequest _ | .sysexI2cConfig _ | .sysexSamplingInterval _ => .sysexSubtype
  | .sysexOther _ _ | .sysexEmpty => .sysexSubtype
  | .decode14 _ _ | .encode7pair _ | .packByteStream _ | .unpackByteStream _ | .decodeLe7 _ | .portOfBitOf _ => .codec
  | .txSetPinMode _ _ | .txWriteDigital _ _ | .txWriteAnalog _ _ | .txReportAnalog _ _ | .txReportDigital _ _ | .txCapsQuery => .tx
  | .txAmapQuery | .txI2cRequest _ _ _ | .txI2cConfig _ | .txSamplingInterval _ | .txPinStateQuery _ => .tx

/-- A row of opcode_table.json that a byte selects: it selects when `b &&& mask = bits`, and, where `cond` names a phase,
only in that phase; a `dflt` row selects when no other row of its stage does (R65). -/
structure Row where
  stage : Stage
  bits : Byte
  mask : Byte
  cond : Option Phase
  dflt : Bool
  mnemonic : String
  deriving DecidableEq, Repr

/-- The reader's rows. -/
def readerRows : List Row :=
  [⟨.idleByte, 0xF0, 0xFF, none, false, "SYSEX_START"⟩,
   ⟨.idleByte, 0x00, 0x00, none, true, "SHORT_START"⟩,
   ⟨.insysexByte, 0xF7, 0xFF, none, false, "SYSEX_END"⟩,
   ⟨.insysexByte, 0x00, 0x00, none, true, "SYSEX_DATA"⟩,
   ⟨.insysexByte, 0x00, 0x00, some (.inSysex true), false, "SYSEX_OVERFLOW"⟩,
   ⟨.inshortByte, 0x00, 0x00, some (.inShort false), false, "SHORT_DATA0"⟩,
   ⟨.inshortByte, 0x00, 0x00, some (.inShort true), false, "SHORT_DATA1"⟩]

/-- The channel-form rows. -/
def channelRows : List Row :=
  [⟨.shortFirst, 0x00, 0xF0, none, false, "SHORT_00"⟩,
   ⟨.shortFirst, 0x10, 0xF0, none, false, "SHORT_10"⟩,
   ⟨.shortFirst, 0x20, 0xF0, none, false, "SHORT_20"⟩,
   ⟨.shortFirst, 0x30, 0xF0, none, false, "SHORT_30"⟩,
   ⟨.shortFirst, 0x40, 0xF0, none, false, "SHORT_40"⟩,
   ⟨.shortFirst, 0x50, 0xF0, none, false, "SHORT_50"⟩,
   ⟨.shortFirst, 0x60, 0xF0, none, false, "SHORT_60"⟩,
   ⟨.shortFirst, 0x70, 0xF0, none, false, "SHORT_70"⟩,
   ⟨.shortFirst, 0x80, 0xF0, none, false, "SHORT_80"⟩,
   ⟨.shortFirst, 0x90, 0xF0, none, false, "DIGITAL"⟩,
   ⟨.shortFirst, 0xA0, 0xF0, none, false, "SHORT_A0"⟩,
   ⟨.shortFirst, 0xB0, 0xF0, none, false, "SHORT_B0"⟩,
   ⟨.shortFirst, 0xC0, 0xF0, none, false, "REPORT_ANALOG"⟩,
   ⟨.shortFirst, 0xD0, 0xF0, none, false, "REPORT_DIGITAL"⟩,
   ⟨.shortFirst, 0xE0, 0xF0, none, false, "ANALOG"⟩]

/-- The whole-byte rows. -/
def wholeByteRows : List Row :=
  [⟨.shortFirst, 0xF1, 0xFF, none, false, "SHORT_F1"⟩,
   ⟨.shortFirst, 0xF2, 0xFF, none, false, "SHORT_F2"⟩,
   ⟨.shortFirst, 0xF3, 0xFF, none, false, "SHORT_F3"⟩,
   ⟨.shortFirst, 0xF4, 0xFF, none, false, "PIN_MODE"⟩,
   ⟨.shortFirst, 0xF5, 0xFF, none, false, "SHORT_F5"⟩,
   ⟨.shortFirst, 0xF6, 0xFF, none, false, "SHORT_F6"⟩,
   ⟨.shortFirst, 0xF7, 0xFF, none, false, "SHORT_F7"⟩,
   ⟨.shortFirst, 0xF8, 0xFF, none, false, "SHORT_F8"⟩,
   ⟨.shortFirst, 0xF9, 0xFF, none, false, "VERSION"⟩,
   ⟨.shortFirst, 0xFA, 0xFF, none, false, "SHORT_FA"⟩,
   ⟨.shortFirst, 0xFB, 0xFF, none, false, "SHORT_FB"⟩,
   ⟨.shortFirst, 0xFC, 0xFF, none, false, "SHORT_FC"⟩,
   ⟨.shortFirst, 0xFD, 0xFF, none, false, "SHORT_FD"⟩,
   ⟨.shortFirst, 0xFE, 0xFF, none, false, "SHORT_FE"⟩,
   ⟨.shortFirst, 0xFF, 0xFF, none, false, "SHORT_FF"⟩]

/-- The sysex subtype rows. -/
def subtypeRows : List Row :=
  [⟨.sysexSubtype, 0x79, 0xFF, none, false, "FIRMWARE"⟩,
   ⟨.sysexSubtype, 0x6C, 0xFF, none, false, "CAPS"⟩,
   ⟨.sysexSubtype, 0x6A, 0xFF, none, false, "AMAP"⟩,
   ⟨.sysexSubtype, 0x6E, 0xFF, none, false, "PINSTATE"⟩,
   ⟨.sysexSubtype, 0x77, 0xFF, none, false, "I2CREPLY"⟩,
   ⟨.sysexSubtype, 0x69, 0xFF, none, false, "SYSEX_AMAP_QUERY"⟩,
   ⟨.sysexSubtype, 0x6B, 0xFF, none, false, "SYSEX_CAPS_QUERY"⟩,
   ⟨.sysexSubtype, 0x6D, 0xFF, none, false, "SYSEX_PINSTATE_QUERY"⟩,
   ⟨.sysexSubtype, 0x76, 0xFF, none, false, "SYSEX_I2C_REQUEST"⟩,
   ⟨.sysexSubtype, 0x78, 0xFF, none, false, "SYSEX_I2C_CONFIG"⟩,
   ⟨.sysexSubtype, 0x7A, 0xFF, none, false, "SYSEX_SAMPLING_INTERVAL"⟩,
   ⟨.sysexSubtype, 0x00, 0x00, none, true, "SYSEX_OTHER"⟩]

/-- The companion encoder's rows: the byte is the frame's first byte, or for a sysex frame its subtype byte. -/
def txRows : List Row :=
  [⟨.tx, 0xF4, 0xFF, none, false, "TX_SET_PIN_MODE"⟩,
   ⟨.tx, 0x90, 0xF0, none, false, "TX_WRITE_DIGITAL"⟩,
   ⟨.tx, 0xE0, 0xF0, none, false, "TX_WRITE_ANALOG"⟩,
   ⟨.tx, 0xC0, 0xF0, none, false, "TX_REPORT_ANALOG"⟩,
   ⟨.tx, 0xD0, 0xF0, none, false, "TX_REPORT_DIGITAL"⟩,
   ⟨.tx, 0x6B, 0xFF, none, false, "TX_CAPS_QUERY"⟩,
   ⟨.tx, 0x69, 0xFF, none, false, "TX_AMAP_QUERY"⟩,
   ⟨.tx, 0x76, 0xFF, none, false, "TX_I2C_REQUEST"⟩,
   ⟨.tx, 0x78, 0xFF, none, false, "TX_I2C_CONFIG"⟩,
   ⟨.tx, 0x7A, 0xFF, none, false, "TX_SAMPLING_INTERVAL"⟩,
   ⟨.tx, 0x6D, 0xFF, none, false, "TX_PINSTATE_QUERY"⟩]

/-- Every row of opcode_table.json that a byte selects. The other ten are told by no byte: the three `err` rows, the
empty sysex message and the six codec functions. -/
def opcodeRows : List Row := readerRows ++ channelRows ++ wholeByteRows ++ subtypeRows ++ txRows

/-- Whether a row other than a default row selects. -/
def Row.selects (r : Row) (st : Stage) (ph : Option Phase) (b : Byte) : Bool :=
  decide (r.stage = st) && !r.dflt && decide (b &&& r.mask = r.bits) && (r.cond.isNone || decide (r.cond = ph))

/-- The mnemonic of the row a byte selects in a stage (and phase), by R65's reading of the table. -/
def selectRow (st : Stage) (ph : Option Phase) (b : Byte) : Option String :=
  match opcodeRows.find? fun r => r.selects st ph b with
  | some r => some r.mnemonic
  | none => (opcodeRows.find? fun r => decide (r.stage = st) && r.dflt).map (·.mnemonic)

/-- The byte and phase by which the table selects a row; `none` for the ten rows told by no byte, and for the encoder's
operations, whose byte is in the frame they write. -/
def Instr.opcode : Instr → Option (Option Phase × Byte)
  | .sysexStart => some (none, Wire.sysexStart)
  | .shortStart b => some (none, b)
  | .sysexEnd => some (none, Wire.sysexEnd)
  | .sysexData b => some (some (.inSysex false), b)
  | .sysexOverflow b => some (some (.inSysex true), b)
  | .shortData0 b => some (some (.inShort false), b)
  | .shortData1 b => some (some (.inShort true), b)
  | .sysexOther sub _ => some (none, sub)
  | .short00 chan _ _ => some (none, Byte.ofNibbles 0x0 chan)
  | .short10 chan _ _ => some (none, Byte.ofNibbles 0x1 chan)
  | .short20 chan _ _ => some (none, Byte.ofNibbles 0x2 chan)
  | .short30 chan _ _ => some (none, Byte.ofNibbles 0x3 chan)
  | .short40 chan _ _ => some (none, Byte.ofNibbles 0x4 chan)
  | .short50 chan _ _ => some (none, Byte.ofNibbles 0x5 chan)
  | .short60 chan _ _ => some (none, Byte.ofNibbles 0x6 chan)
  | .short70 chan _ _ => some (none, Byte.ofNibbles 0x7 chan)
  | .short80 chan _ _ => some (none, Byte.ofNibbles 0x8 chan)
  | .digital chan _ _ => some (none, Byte.ofNibbles 0x9 chan)
  | .shortA0 chan _ _ => some (none, Byte.ofNibbles 0xA chan)
  | .shortB0 chan _ _ => some (none, Byte.ofNibbles 0xB chan)
  | .reportAnalog chan _ _ => some (none, Byte.ofNibbles 0xC chan)
  | .reportDigital chan _ _ => some (none, Byte.ofNibbles 0xD chan)
  | .analog chan _ _ => some (none, Byte.ofNibbles 0xE chan)
  | .shortF1 _ _ => some (none, 0xF1)
  | .shortF2 _ _ => some (none, 0xF2)
  | .shortF3 _ _ => some (none, 0xF3)
  | .pinMode _ _ => some (none, 0xF4)
  | .shortF5 _ _ => some (none, 0xF5)
  | .shortF6 _ _ => some (none, 0xF6)
  | .shortF7 _ _ => some (none, 0xF7)
  | .shortF8 _ _ => some (none, 0xF8)
  | .version _ _ => some (none, 0xF9)
  | .shortFA _ _ => some (none, 0xFA)
  | .shortFB _ _ => some (none, 0xFB)
  | .shortFC _ _ => some (none, 0xFC)
  | .shortFD _ _ => some (none, 0xFD)
  | .shortFE _ _ => some (none, 0xFE)
  | .shortFF _ _ => some (none, 0xFF)
  | .firmware _ => some (none, Wire.subFirmware)
  | .caps _ => some (none, Wire.subCaps)
  | .amap _ => some (none, Wire.subAmap)
  | .pinState _ => some (none, Wire.subPinState)
  | .i2cReply _ => some (none, Wire.subI2cReply)
  | .sysexAmapQuery _ => some (none, Wire.subAmapQuery)
  | .sysexCapsQuery _ => some (none, Wire.subCapsQuery)
  | .sysexPinStateQuery _ => some (none, Wire.subPinStateQuery)
  | .sysexI2cRequest _ => some (none, Wire.subI2cRequest)
  | .sysexI2cConfig _ => some (none, Wire.subI2cConfig)
  | .sysexSamplingInterval _ => some (none, Wire.subSamplingInterval)
  | .errIdle | .errInSysex | .errInShort | .sysexEmpty => none
  | .decode14 _ _ | .encode7pair _ | .packByteStream _ | .unpackByteStream _ | .decodeLe7 _ | .portOfBitOf _ => none
  | .txSetPinMode _ _ | .txWriteDigital _ _ | .txWriteAnalog _ _ | .txReportAnalog _ _ | .txReportDigital _ _ => none
  | .txCapsQuery | .txAmapQuery | .txI2cRequest _ _ _ | .txI2cConfig _ | .txSamplingInterval _ => none
  | .txPinStateQuery _ => none

/-! ## The host's table words -/

/-- The shortest payload for which a sysex row has its typed decode (R57, column WF). -/
def minPayload (sub : Byte) : Nat :=
  if sub = Wire.subFirmware ∨ sub = Wire.subPinState then 2 else if sub = Wire.subI2cReply then 4 else 0

/-- The `n` low bytes of `w`, the least significant first. -/
def bytesOf : Nat → Nat → List Byte
  | 0, _ => []
  | n + 1, w => BitVec.ofNat 8 w :: bytesOf n (w / 256)

/-- The instruction read from a table word: bit 0 is the least significant bit of the first byte. One byte value can be a
row of several stages, so the most specific row wins (a full-byte match before a nibble match), the earlier row of the
table between two as specific, and no encoder row, since those are calls (log entry 13). Missing operand bytes are 0. -/
def decodeTableWord (nbits w : Nat) : Option Instr :=
  match bytesOf (nbits / 8) (w % 2 ^ nbits) with
  | [] => none
  | b :: more =>
    if b = Wire.sysexStart then some (decodeSymbol .idle (.byte b))
    else if b = Wire.sysexEnd then some (decodeSymbol (.inSysex false) (.byte b))
    else
      let bytes :=
        if b ∈ Wire.namedSubtypes then sysexBytes (b :: more ++ List.replicate (minPayload b - more.length) 0)
        else b :: more ++ List.replicate (2 - more.length) 0
      match decodeMessage bytes with
      | .ok (i, []) => some i
      | _ => none

end Sys2Proof
end

