-- ==== Sys2Proof/Machine/State.lean ====
section
/-!
DEFINITION. The state of FPD and of the companion BoardState as plain data (spec/10_state.md, spec/45_boardstate.md),
the environment's queue that the step reads, the reasons a step can stop, and the state after reset.
-/

namespace Sys2Proof.Machine

/-- The fatal causes (R18). -/
inductive Cause where
  | transportError
  | malformedFrame
  | accOverflow
  deriving DecidableEq, Repr

/-- `cnt` and the register that is meaningful with it (R11): two data bytes to come, or one, with `d0` received. `d0` is
left out of the first case, as R11 allows. -/
inductive Remaining where
  | two
  | one (d0 : Byte)
  deriving DecidableEq, Repr

/-- The reader state (R11). The flat registers of R11 are an informative view (Machine/Flags.lean). -/
inductive RState where
  | idle
  | inSysex (acc : List Byte)
  | inShort (first cmd : Byte) (cnt : Remaining)
  | halted (cause : Cause)
  deriving DecidableEq, Repr

/-- The decoder's result (R20). -/
inductive DecodedMessage where
  | firmwareReport (major minor : Byte) (name : List Half)
  | capabilityReport (pins : List (List (Byte × Byte)))
  | analogMappingReport (map : List Byte)
  | pinStateReport (pin mode : Byte) (state : Nat)
  | i2cReply (address register : Half) (payload : List Half)
  | analogValue (pin : Nibble) (value : Half)
  | protocolVersion (major minor : Byte)
  | unknown (raw : List Byte)
  deriving DecidableEq, Repr

/-- The output alphabet (R21). -/
inductive Event where
  | msg (m : DecodedMessage)
  | fatal (cause : Cause)
  deriving DecidableEq, Repr

/-- The seven named pin modes (R170; 00_scope.md glossary, "Pin"). The spec gives them no numbers (N5). -/
inductive PinMode where
  | input | output | analog | pwm | servo | shift | i2c
  deriving DecidableEq, Repr

/-- An entry of the analog mapping table (R175). -/
inductive AmapEntry where
  | unmapped
  | channel (c : Byte)
  deriving DecidableEq, Repr

/-- The companion BoardState (R170). `none` in `captable` and `amap` is "unpopulated", in `protover` and `fwver` "unset"
(R171). -/
structure Board where
  captable : Option (List (List (Byte × Byte)))
  amap : Option (List AmapEntry)
  analogcache : Vector Nat 16
  portcache : Vector Byte 16
  protover : Option (Byte × Byte)
  fwver : Option (Byte × Byte)
  /-- The pins whose mode is not `input`, rising by pin; no rule writes it (R178, N25; log entry 7). -/
  pinModes : List (Nat × PinMode)
  deriving DecidableEq, Repr

/-- What a codec function or an encoder operation returns to its caller (R80 to R88, R150). -/
inductive Ret where
  | half (v : Half)
  | pair (lsb msb : Byte)
  | bytes (bs : List Byte)
  | halves (vs : List Half)
  | nat (n : Nat)
  | portBit (port bit : Byte)
  /-- The write succeeded (R150). -/
  | written
  /-- The write failed: "`TransportError` returned to the caller" (R150, R197). -/
  | transportError
  deriving DecidableEq, Repr

/-- What the environment does to the block, one item a step (log entries 1 and 2). -/
inductive Stimulus where
  /-- The transport presents a symbol (R31). -/
  | sym (x : Symbol)
  /-- A caller invokes a codec function or an encoder operation (R8). -/
  | call (i : Instr)
  /-- The transport's write side starts (true) or stops (false) accepting frames (R150, R197). -/
  | txLine (up : Bool)
  /-- The `rst` input (R31, R205). -/
  | rst
  deriving DecidableEq, Repr

/-- The reader record of R10 (`rs`, `pos`, `out`), the companion tables, and the model's own fields. -/
structure State where
  rs : RState
  /-- Input symbols consumed since reset (R12). -/
  pos : Nat
  /-- The output event stream, oldest first (R21). -/
  out : List Event
  board : Board
  /-- The frames the transport accepted, oldest first (R150). -/
  tx : List (List Byte)
  /-- The values returned to callers, oldest first: the model's own record. -/
  ret : List Ret
  /-- The OPEN parameters (R5, R27). -/
  cfg : Params
  /-- What the environment will do, next first: the model's own queue. -/
  env : List Stimulus
  /-- Whether the transport accepts a frame now: an input line of the environment. -/
  txUp : Bool
  /-- How many free values have been drawn: the model's own counter (log entry 9). -/
  draws : Nat
  deriving DecidableEq, Repr

/-- The faults. A fatal condition of the spec is none of these: it is a next state (R190). -/
inductive Fault where
  /-- Raised by the meaning of a row, in a state in which R65 and R100 do not select that row (a `SYSEX_END` while `Idle`).
  No step raises it. Safe: the machine stops where the spec has no such instruction. -/
  | rowNotSelected
  deriving DecidableEq, Repr

/-- The refusals. -/
inductive Refusal where
  /-- Raised by exec's arm of an instruction with no meaning. Safe. -/
  | notModelled (mnemonic : String)
  /-- Raised by the encoder operations of R152 to R155 on an argument outside its stated range: 93_implementation_defined.md
  U6, "`refuse` (precondition of the operation)". Safe. -/
  | argumentOutOfRange
  /-- Raised by the fetch when a caller's request is no codec function and no encoder operation: nothing in the spec lets a
  caller invoke the reader or the decoder. Safe. -/
  | notACall
  deriving DecidableEq, Repr

/-- What the fetch finds (R31): an instruction to run on a state, a state in which no instruction runs in this step, or a
request that is refused. -/
inductive Fetched where
  | run (i : Instr) (s : State)
  | quiet (s : State)
  | stop (r : Refusal)
  deriving DecidableEq, Repr

/-- The tables' reset contents (R171); `pinModes` by log entry 7. -/
def Board.reset : Board :=
  { captable := none, amap := none, analogcache := Vector.replicate 16 0, portcache := Vector.replicate 16 0,
    protover := none, fwver := none, pinModes := [] }

/-- The state after reset (R25, R171, R205), the parameters at R5's defaults, and an empty environment. -/
def State.reset : State :=
  { rs := .idle, pos := 0, out := [], board := Board.reset, tx := [], ret := [], cfg := Params.default,
    env := [], txUp := true, draws := 0 }

end Sys2Proof.Machine
end

