-- ==== Sys2Proof/Machine/Flags.lean ====
section
/-!
DEFINITION. The one status condition of FPD and the flat register view (spec/10_state.md R11, R18). There is no arithmetic
flag: no codec or decode rule writes one.
-/

namespace Sys2Proof.Machine

/-- The cause codes of R18. -/
def Cause.code : Cause → BitVec 2
  | .transportError => 1
  | .malformedFrame => 2
  | .accOverflow => 3

/-- The flat register `st` (R11). -/
def RState.st : RState → BitVec 2
  | .idle => 0
  | .inSysex _ => 1
  | .inShort _ _ _ => 2
  | .halted _ => 3

/-- The flat register `cnt` (R11). -/
def Remaining.count : Remaining → BitVec 2
  | .two => 2
  | .one _ => 1

/-- The status condition *halted* (R18). -/
def State.isHalted (s : State) : Bool := decide (s.rs.st = 3)

/-- Whether the accumulator holds `SYSEX_MAX` bytes, so that a continuation byte does not fit (R110). -/
def full (cfg : Params) (acc : List Byte) : Bool :=
  match cfg.sysexMax with
  | none => false
  | some n => decide (n ≤ acc.length)

/-- The phase in which the reader reads its next symbol (R12); none once halted (R112). -/
def State.phase (s : State) : Option Phase :=
  match s.rs with
  | .idle => some .idle
  | .inSysex acc => some (.inSysex (full s.cfg acc))
  | .inShort _ _ .two => some (.inShort false)
  | .inShort _ _ (.one _) => some (.inShort true)
  | .halted _ => none

end Sys2Proof.Machine
end

