-- ==== Sys2Proof/Machine/Operands.lean ====
section
/-!
DEFINITION. WireCodec and the operand forms (spec/40_wirecodec.md, spec/30_encoding.md R55, R57): pure functions.
-/

namespace Sys2Proof.Machine

/-- `decode14` (R80): the operands are widened before the shift, and nothing is masked. -/
def decode14 (lsb msb : Byte) : Half := lsb.setWidth 16 ||| (msb.setWidth 16 <<< 7)

/-- `encode7pair` (R81). -/
def encode7pair (value : Nat) : Byte × Byte :=
  (BitVec.ofNat 8 (value &&& 0x7F), BitVec.ofNat 8 ((value >>> 7) &&& 0x7F))

/-- A value as its two wire bytes, low part first (R34, R81). -/
def pairBytes (value : Nat) : List Byte := [(encode7pair value).1, (encode7pair value).2]

/-- The wire bytes of an outbound field: "every multi-byte field uses `encode7pair`" (R156, R160). -/
def fieldBytes : TxField → List Byte
  | .byte b => [b]
  | .wide value => pairBytes value

/-- The wire bytes of an outbound frame's fields, in order (R156). -/
def fieldsBytes (fs : List TxField) : List Byte := fs.flatMap fieldBytes

/-- `pack_byte_stream` (R82). -/
def packByteStream : List Byte → List Byte
  | [] => []
  | b :: rest => (b &&& 0x7F) :: ((b >>> 7) &&& 0x7F) :: packByteStream rest

/-- `unpack_byte_stream` on a list of even length (R83). A last unpaired byte is not looked at: no caller passes one. -/
def unpackPairs : List Byte → List Half
  | lo :: hi :: rest => decode14 lo hi :: unpackPairs rest
  | _ => []

/-- `unpack_byte_stream` as a caller sees it: on an odd length the spec does not define it, and the value is free
(R83; log entry 8). -/
def unpackByteStream (wire : List Byte) : List Half :=
  if wire.length % 2 = 0 then unpackPairs wire else Config.unpackOdd wire

/-- `decode_le7` (R84): byte `k` shifted left by `7k`, all or-ed. -/
def decodeLe7 : List Byte → Nat
  | [] => 0
  | b :: rest => b.toNat ||| (decodeLe7 rest <<< 7)

/-- `port_of` (R88). -/
def portOf (pin : Byte) : Byte := pin >>> 3

/-- `bit_of` (R88). -/
def bitOf (pin : Byte) : Byte := pin &&& 7

/-- The scan of R123: `cur` is the list of the pin being read, `pins` the lists already closed. -/
def parseCapsFrom : List Byte → List (Byte × Byte) → List (List (Byte × Byte)) → Option (List (List (Byte × Byte)))
  | [], cur, pins => if cur = [] then some pins else none
  | [md], cur, pins => if md = Wire.capEnd then some (pins ++ [cur]) else none
  | md :: r :: rest, cur, pins =>
    if md = Wire.capEnd then parseCapsFrom (r :: rest) [] (pins ++ [cur])
    else parseCapsFrom rest (cur ++ [(md, r)]) pins

/-- `parse_caps` (R123); `none` is `Malformed`. -/
def parseCaps (p : List Byte) : Option (List (List (Byte × Byte))) := parseCapsFrom p [] []

/-- `is_unmapped` (R124). -/
def isUnmapped (cfg : Params) (e : Byte) : Bool := decide (e = cfg.unmapped)

/-- The mapping table's entry for a received byte (R124, R175). -/
def amapEntry (cfg : Params) (e : Byte) : AmapEntry := if isUnmapped cfg e then .unmapped else .channel e

end Sys2Proof.Machine
end

