-- ==== Sys2Proof/Machine/Ops.lean ====
section
/-!
DEFINITION. The shared operations: emitting an event, BoardState's updates, completing a message, raising a fatal
condition and the reset that alone leaves it, the port and analog caches, and writing a frame.
-/

namespace Sys2Proof.Machine

/-! ## The output event stream -/

/-- `Emit(e)` (R6, R21): append at the end, never blocking (R32). -/
def State.emit (s : State) (e : Event) : State := { s with out := s.out ++ [e] }

/-! ## The caches (Vector accesses in one place) -/

/-- The analog cache of a pin (R170). -/
def Board.analog (b : Board) (pin : Nibble) : Nat := b.analogcache[pin.toNat]'(pin.isLt)

/-- `analogcache[pin] <- v` (R153, R176). -/
def Board.setAnalog (b : Board) (pin : Nibble) (v : Nat) : Board :=
  { b with analogcache := b.analogcache.set pin.toNat v pin.isLt }

/-- The cached byte of a port (R170). -/
def Board.port (b : Board) (port : Nibble) : Byte := b.portcache[port.toNat]'(port.isLt)

/-- `portcache[port] <- v` (R152). -/
def Board.setPort (b : Board) (port : Nibble) (v : Byte) : Board :=
  { b with portcache := b.portcache.set port.toNat v port.isLt }

/-- The mode of a pin (R170): `input` for a pin not listed (log entry 7). -/
def Board.pinMode (b : Board) (pin : Nat) : PinMode :=
  match b.pinModes.find? fun e => decide (e.1 = pin) with
  | some e => e.2
  | none => .input

/-! ## BoardState updates by decoded messages (R173 to R178) -/

/-- The update a decoded message makes to the tables. -/
def Board.update (b : Board) (cfg : Params) : DecodedMessage → Board
  | .firmwareReport major minor _ => { b with fwver := some (major, minor) }
  | .capabilityReport pins =>
    match b.captable with
    | none => { b with captable := some pins }
    | some _ => b
  | .analogMappingReport map =>
    match b.amap with
    | none => { b with amap := some (map.map (amapEntry cfg)) }
    | some _ => b
  | .analogValue pin value => b.setAnalog pin value.toNat
  | .protocolVersion major minor => { b with protover := some (major, minor) }
  | .pinStateReport _ _ _ => b
  | .i2cReply _ _ _ => b
  | .unknown _ => b

/-! ## Completing a message -/

/-- `apply m to BoardState; Emit(Msg(m)); rs <- Idle` (R104, R106, R172). -/
def State.deliver (s : State) (m : DecodedMessage) : State :=
  ({ s with board := s.board.update s.cfg m, rs := .idle } : State).emit (.msg m)

/-- The meaning of a completed sysex message's row: the row selects when the reader holds exactly these bytes (R65). -/
def completeSysex (acc : List Byte) (m : DecodedMessage) (s : State) : Host.Outcome State Fault Refusal :=
  if s.rs = .inSysex acc then .next (s.deliver m) else .fault .rowNotSelected

/-- The meaning of a completed short message's row: the row selects when the reader holds this first byte and this first
data byte (R65); `m` is the decoded message. -/
def completeShort (first d0 : Byte) (m : DecodedMessage) (s : State) : Host.Outcome State Fault Refusal :=
  if s.rs = .inShort first (cmdOf first) (.one d0) then .next (s.deliver m) else .fault .rowNotSelected

/-! ## Fatal conditions: the block's only trap -/

/-- `raise Fatal(cause)` (R190): the partial message is dropped with the old `rs`, the event is emitted, the reader halts.
Nothing is saved. -/
def State.raiseFatal (s : State) (cause : Cause) : State :=
  ({ s with rs := .halted cause } : State).emit (.fatal cause)

/-- Reset (R205), the only way out of `Halted` (R195): a new instance. The parameters, the environment's queue, its write
line and the count of free values drawn are not the instance's (log entry 6). -/
def State.resetInstance (s : State) : State :=
  { State.reset with cfg := s.cfg, env := s.env, txUp := s.txUp, draws := s.draws }

/-! ## Calls -/

/-- A value returned to the caller. -/
def State.returns (s : State) (r : Ret) : State := { s with ret := s.ret ++ [r] }

/-- Write one frame to the transport (R150): the whole frame or, when the write fails, nothing of it and a
`TransportError` to the caller. The reader is not touched (R197). -/
def State.sendFrame (s : State) (frame : List Byte) : State :=
  if s.txUp then ({ s with tx := s.tx ++ [frame] } : State).returns .written else s.returns .transportError

/-- The outcome of an operation that writes a frame and a cache, `new` being the tables with the cache written. When the
write fails the tables are the old or the new ones, by a free value (U16; log entry 9). -/
def State.sendCached (s : State) (frame : List Byte) (new : Board) : State :=
  if s.txUp then ({ s with board := new } : State).sendFrame frame
  else
    ({ s with board := if Config.failedWriteKeepsNew s.draws then new else s.board, draws := s.draws + 1 } : State).sendFrame
      frame

/-- A sysex frame (R156): the markers around the subtype byte and the fields. -/
def sysexFrame (sub : Byte) (fields : List Byte) : List Byte := sysexBytes (sub :: fields)

end Sys2Proof.Machine
end

