-- ==== Sys2Proof/Machine/Codec.lean ====
section
/-!
DEFINITION. The codec rows (spec/40_wirecodec.md): a caller invokes a pure function, and its value is returned to the
caller. No FPD state is read or written.
-/

namespace Sys2Proof.Machine

/-- decode14 (R80). -/
def execDecode14 (lsb msb : Byte) (s : State) : Host.Outcome State Fault Refusal :=
  .next (s.returns (.half (decode14 lsb msb)))

/-- encode7pair (R81). A value above 16383 loses its high bits, as R81's formula says (U1; log entry 10). -/
def execEncode7pair (value : Nat) (s : State) : Host.Outcome State Fault Refusal :=
  .next (s.returns (.pair (encode7pair value).1 (encode7pair value).2))

/-- pack_byte_stream (R82). -/
def execPackByteStream (bytes : List Byte) (s : State) : Host.Outcome State Fault Refusal :=
  .next (s.returns (.bytes (packByteStream bytes)))

/-- unpack_byte_stream (R83); on an odd length the value is free. -/
def execUnpackByteStream (wire : List Byte) (s : State) : Host.Outcome State Fault Refusal :=
  .next (s.returns (.halves (unpackByteStream wire)))

/-- decode_le7 (R84). -/
def execDecodeLe7 (bytes : List Byte) (s : State) : Host.Outcome State Fault Refusal :=
  .next (s.returns (.nat (decodeLe7 bytes)))

/-- port_of and bit_of (R88). -/
def execPortOfBitOf (pin : Byte) (s : State) : Host.Outcome State Fault Refusal :=
  .next (s.returns (.portBit (portOf pin) (bitOf pin)))

end Sys2Proof.Machine
end

