-- ==== Sys2Proof/Machine/Encoder.lean ====
section
/-!
DEFINITION. The companion MessageEncoder (spec/44_encoder_frames.md): each operation builds one frame and writes it to the
transport (R150). Arguments outside the ranges of U6 are refused, as U6 says.
-/

namespace Sys2Proof.Machine

/-! ## The frames -/

/-- Set pin mode (R151): "pin and mode each masked to 7 bits"; pin first by log entry 11. -/
def frameSetPinMode (pin mode : Nat) : List Byte :=
  [Wire.cmdPinMode, BitVec.ofNat 8 (pin &&& 0x7F), BitVec.ofNat 8 (mode &&& 0x7F)]

/-- A port's byte with the bit of one pin set or cleared and the others kept (R152). -/
def withPinBit (portByte pin level : Byte) : Byte :=
  if level = 1 then portByte ||| ((1 : Byte) <<< bitOf pin) else portByte &&& ~~~((1 : Byte) <<< bitOf pin)

/-- Write digital (R152): the port's whole byte. -/
def frameWriteDigital (pin portByte : Byte) : List Byte :=
  [Wire.cmdDigital ||| portOf pin, (encode7pair portByte.toNat).1, (encode7pair portByte.toNat).2]

/-- Write analog (R153). -/
def frameWriteAnalog (pin : Byte) (value : Nat) : List Byte :=
  [Wire.cmdAnalog ||| pin, (encode7pair value).1, (encode7pair value).2]

/-- Enable or disable analog streaming (R154). -/
def frameReportAnalog (pin enable : Byte) : List Byte := [Wire.cmdReportAnalog ||| pin, enable]

/-- Enable or disable digital streaming (R155). -/
def frameReportDigital (port enable : Byte) : List Byte := [Wire.cmdReportDigital ||| port, enable]

/-- A sysex operation's frame with its fields on the wire (R156): each multi-byte field split by `encode7pair`. -/
def frameFields (sub : Byte) (fields : List TxField) : List Byte := sysexFrame sub (fieldsBytes fields)

/-- I2C request (R159): address and register/flags as given, the payload packed. -/
def frameI2cRequest (address regflags : List TxField) (payload : List Byte) : List Byte :=
  sysexFrame Wire.subI2cRequest (fieldsBytes address ++ fieldsBytes regflags ++ packByteStream payload)

/-! ## The operations -/

/-- TX_SET_PIN_MODE (R151). -/
def execTxSetPinMode (pin mode : Nat) (s : State) : Host.Outcome State Fault Refusal :=
  .next (s.sendFrame (frameSetPinMode pin mode))

/-- TX_WRITE_DIGITAL (R152): the port cache is written, then the frame is sent with the new byte. -/
def execTxWriteDigital (pin level : Byte) (s : State) : Host.Outcome State Fault Refusal :=
  if pin.toNat ≤ Wire.pinIndexMax ∧ level.toNat ≤ 1 then
    let port : Nibble := (portOf pin).setWidth 4
    let byte := withPinBit (s.board.port port) pin level
    .next (s.sendCached (frameWriteDigital pin byte) (s.board.setPort port byte))
  else .refused .argumentOutOfRange

/-- TX_WRITE_ANALOG (R153): the frame is sent, then the analog cache is written. -/
def execTxWriteAnalog (pin : Byte) (value : Nat) (s : State) : Host.Outcome State Fault Refusal :=
  if pin.toNat ≤ 15 then
    .next (s.sendCached (frameWriteAnalog pin value) (s.board.setAnalog (pin.setWidth 4) value))
  else .refused .argumentOutOfRange

/-- TX_REPORT_ANALOG (R154). -/
def execTxReportAnalog (pin enable : Byte) (s : State) : Host.Outcome State Fault Refusal :=
  if pin.toNat ≤ 15 ∧ enable.toNat ≤ 1 then .next (s.sendFrame (frameReportAnalog pin enable))
  else .refused .argumentOutOfRange

/-- TX_REPORT_DIGITAL (R155). -/
def execTxReportDigital (port enable : Byte) (s : State) : Host.Outcome State Fault Refusal :=
  if port.toNat ≤ 15 ∧ enable.toNat ≤ 1 then .next (s.sendFrame (frameReportDigital port enable))
  else .refused .argumentOutOfRange

/-- TX_CAPS_QUERY (R157). -/
def execTxCapsQuery (s : State) : Host.Outcome State Fault Refusal :=
  .next (s.sendFrame (sysexFrame Wire.subCapsQuery []))

/-- TX_AMAP_QUERY (R158). -/
def execTxAmapQuery (s : State) : Host.Outcome State Fault Refusal :=
  .next (s.sendFrame (sysexFrame Wire.subAmapQuery []))

/-- TX_I2C_REQUEST (R159). -/
def execTxI2cRequest (address regflags : List TxField) (payload : List Byte) (s : State) : Host.Outcome State Fault Refusal :=
  .next (s.sendFrame (frameI2cRequest address regflags payload))

/-- TX_I2C_CONFIG (R160); which fields there are is the caller's to say (log entry 12). -/
def execTxI2cConfig (fields : List TxField) (s : State) : Host.Outcome State Fault Refusal :=
  .next (s.sendFrame (frameFields Wire.subI2cConfig fields))

/-- TX_SAMPLING_INTERVAL (R160); which fields there are is the caller's to say (log entry 12). -/
def execTxSamplingInterval (fields : List TxField) (s : State) : Host.Outcome State Fault Refusal :=
  .next (s.sendFrame (frameFields Wire.subSamplingInterval fields))

/-- TX_PINSTATE_QUERY (R161); which fields there are is the caller's to say (log entry 12). -/
def execTxPinStateQuery (fields : List TxField) (s : State) : Host.Outcome State Fault Refusal :=
  .next (s.sendFrame (frameFields Wire.subPinStateQuery fields))

end Sys2Proof.Machine
end

