-- ==== Sys2Proof/Machine/Decoder.lean ====
section
/-!
DEFINITION. MessageDecoder (spec/42_decoder_sysex.md, spec/43_decoder_short.md): pure functions from a message's bytes to a
decoded message. A message that does not fit its subtype's layout is `Unknown` with its raw bytes (R128).
-/

namespace Sys2Proof.Machine

/-! ## The sysex path; `p` is the payload `acc[1:]` -/

/-- Firmware report (R122, R128). -/
def decodeFirmware (p : List Byte) : DecodedMessage :=
  match p with
  | major :: minor :: name =>
    if name.length % 2 = 0 then .firmwareReport major minor (unpackPairs name) else .unknown (Wire.subFirmware :: p)
  | _ => .unknown (Wire.subFirmware :: p)

/-- Capability response (R123, R128). -/
def decodeCaps (p : List Byte) : DecodedMessage :=
  match parseCaps p with
  | some pins => .capabilityReport pins
  | none => .unknown (Wire.subCaps :: p)

/-- Analog mapping response (R124). -/
def decodeAmap (p : List Byte) : DecodedMessage := .analogMappingReport p

/-- Pin state response (R125, R128). -/
def decodePinState (p : List Byte) : DecodedMessage :=
  match p with
  | pin :: mode :: state => .pinStateReport pin mode (decodeLe7 state)
  | _ => .unknown (Wire.subPinState :: p)

/-- I2C reply (R126, R128). -/
def decodeI2cReply (p : List Byte) : DecodedMessage :=
  match p with
  | a0 :: a1 :: r0 :: r1 :: payload =>
    if payload.length % 2 = 0 then .i2cReply (decode14 a0 a1) (decode14 r0 r1) (unpackPairs payload)
    else .unknown (Wire.subI2cReply :: p)
  | _ => .unknown (Wire.subI2cReply :: p)

/-- `decode_sysex` (R120, R121, R127). -/
def decodeSysex (acc : List Byte) : DecodedMessage :=
  match acc with
  | [] => .unknown []
  | sub :: p =>
    if sub = Wire.subFirmware then decodeFirmware p
    else if sub = Wire.subCaps then decodeCaps p
    else if sub = Wire.subAmap then decodeAmap p
    else if sub = Wire.subPinState then decodePinState p
    else if sub = Wire.subI2cReply then decodeI2cReply p
    else .unknown acc

/-! ## The short path -/

/-- Analog value (R141). -/
def decodeAnalog (first d0 d1 : Byte) : DecodedMessage := .analogValue (loNibble first) (decode14 d0 d1)

/-- Protocol version (R142). -/
def decodeVersion (d0 d1 : Byte) : DecodedMessage := .protocolVersion d0 d1

/-- `decode_short` (R140, R143). -/
def decodeShort (first cmd d0 d1 : Byte) : DecodedMessage :=
  if cmd = Wire.cmdAnalog then decodeAnalog first d0 d1
  else if cmd = Wire.cmdVersion then decodeVersion d0 d1
  else .unknown [first, d0, d1]

end Sys2Proof.Machine
end

