-- ==== Sys2Proof/Machine/Reader.lean ====
section
/-!
DEFINITION. FrameReader (spec/41_framereader.md): what one input symbol does in one state. The symbol has been consumed and
`pos` advanced by the fetch (Machine/Fetch.lean), as R100 writes it. In a state in which the row is not selected the
meaning faults.
-/

namespace Sys2Proof.Machine

/-- SYSEX_START (R101). -/
def execSysexStart (s : State) : Host.Outcome State Fault Refusal :=
  match s.rs with
  | .idle => .next { s with rs := .inSysex [] }
  | _ => .fault .rowNotSelected

/-- SHORT_START (R102). -/
def execShortStart (b : Byte) (s : State) : Host.Outcome State Fault Refusal :=
  match s.rs with
  | .idle =>
    if b = Wire.sysexStart then .fault .rowNotSelected else .next { s with rs := .inShort b (cmdOf b) .two }
  | _ => .fault .rowNotSelected

/-- SYSEX_END (R104). -/
def execSysexEnd (s : State) : Host.Outcome State Fault Refusal :=
  match s.rs with
  | .inSysex acc => .next (s.deliver (decodeSysex acc))
  | _ => .fault .rowNotSelected

/-- SYSEX_DATA (R103). -/
def execSysexData (b : Byte) (s : State) : Host.Outcome State Fault Refusal :=
  match s.rs with
  | .inSysex acc =>
    if b = Wire.sysexEnd ∨ full s.cfg acc then .fault .rowNotSelected else .next { s with rs := .inSysex (acc ++ [b]) }
  | _ => .fault .rowNotSelected

/-- SYSEX_OVERFLOW (R110). -/
def execSysexOverflow (b : Byte) (s : State) : Host.Outcome State Fault Refusal :=
  match s.rs with
  | .inSysex acc =>
    if b ≠ Wire.sysexEnd ∧ full s.cfg acc then .next (s.raiseFatal .accOverflow) else .fault .rowNotSelected
  | _ => .fault .rowNotSelected

/-- SHORT_DATA0 (R105). -/
def execShortData0 (b : Byte) (s : State) : Host.Outcome State Fault Refusal :=
  match s.rs with
  | .inShort first cmd .two => .next { s with rs := .inShort first cmd (.one b) }
  | _ => .fault .rowNotSelected

/-- SHORT_DATA1 (R106). -/
def execShortData1 (b : Byte) (s : State) : Host.Outcome State Fault Refusal :=
  match s.rs with
  | .inShort first cmd (.one d0) => .next (s.deliver (decodeShort first cmd d0 b))
  | _ => .fault .rowNotSelected

/-- ERR_IDLE (R107, R186). -/
def execErrIdle (s : State) : Host.Outcome State Fault Refusal :=
  match s.rs with
  | .idle => .next (s.raiseFatal .transportError)
  | _ => .fault .rowNotSelected

/-- ERR_INSYSEX (R108, R187). -/
def execErrInSysex (s : State) : Host.Outcome State Fault Refusal :=
  match s.rs with
  | .inSysex _ => .next (s.raiseFatal .malformedFrame)
  | _ => .fault .rowNotSelected

/-- ERR_INSHORT (R109, R187). -/
def execErrInShort (s : State) : Host.Outcome State Fault Refusal :=
  match s.rs with
  | .inShort _ _ _ => .next (s.raiseFatal .malformedFrame)
  | _ => .fault .rowNotSelected

end Sys2Proof.Machine
end

