-- ==== Sys2Proof/Machine/ShortMessages.lean ====
section
/-!
DEFINITION. The short-message rows (spec/43_decoder_short.md): the completed message is decoded, applied to BoardState and
emitted, and the reader returns to `Idle` (R106). All rows but ANALOG and VERSION decode to `Unknown` with the three
bytes as received (R143).
-/

namespace Sys2Proof.Machine

/-- SHORT_00 (R143). -/
def execShort00 (chan : Nibble) (d0 d1 : Byte) (s : State) : Host.Outcome State Fault Refusal :=
  completeShort (Byte.ofNibbles 0x0 chan) d0 (.unknown [Byte.ofNibbles 0x0 chan, d0, d1]) s

/-- SHORT_10 (R143). -/
def execShort10 (chan : Nibble) (d0 d1 : Byte) (s : State) : Host.Outcome State Fault Refusal :=
  completeShort (Byte.ofNibbles 0x1 chan) d0 (.unknown [Byte.ofNibbles 0x1 chan, d0, d1]) s

/-- SHORT_20 (R143). -/
def execShort20 (chan : Nibble) (d0 d1 : Byte) (s : State) : Host.Outcome State Fault Refusal :=
  completeShort (Byte.ofNibbles 0x2 chan) d0 (.unknown [Byte.ofNibbles 0x2 chan, d0, d1]) s

/-- SHORT_30 (R143). -/
def execShort30 (chan : Nibble) (d0 d1 : Byte) (s : State) : Host.Outcome State Fault Refusal :=
  completeShort (Byte.ofNibbles 0x3 chan) d0 (.unknown [Byte.ofNibbles 0x3 chan, d0, d1]) s

/-- SHORT_40 (R143). -/
def execShort40 (chan : Nibble) (d0 d1 : Byte) (s : State) : Host.Outcome State Fault Refusal :=
  completeShort (Byte.ofNibbles 0x4 chan) d0 (.unknown [Byte.ofNibbles 0x4 chan, d0, d1]) s

/-- SHORT_50 (R143). -/
def execShort50 (chan : Nibble) (d0 d1 : Byte) (s : State) : Host.Outcome State Fault Refusal :=
  completeShort (Byte.ofNibbles 0x5 chan) d0 (.unknown [Byte.ofNibbles 0x5 chan, d0, d1]) s

/-- SHORT_60 (R143). -/
def execShort60 (chan : Nibble) (d0 d1 : Byte) (s : State) : Host.Outcome State Fault Refusal :=
  completeShort (Byte.ofNibbles 0x6 chan) d0 (.unknown [Byte.ofNibbles 0x6 chan, d0, d1]) s

/-- SHORT_70 (R143). -/
def execShort70 (chan : Nibble) (d0 d1 : Byte) (s : State) : Host.Outcome State Fault Refusal :=
  completeShort (Byte.ofNibbles 0x7 chan) d0 (.unknown [Byte.ofNibbles 0x7 chan, d0, d1]) s

/-- SHORT_80 (R143). -/
def execShort80 (chan : Nibble) (d0 d1 : Byte) (s : State) : Host.Outcome State Fault Refusal :=
  completeShort (Byte.ofNibbles 0x8 chan) d0 (.unknown [Byte.ofNibbles 0x8 chan, d0, d1]) s

/-- DIGITAL (R143). -/
def execDigital (chan : Nibble) (d0 d1 : Byte) (s : State) : Host.Outcome State Fault Refusal :=
  completeShort (Byte.ofNibbles 0x9 chan) d0 (.unknown [Byte.ofNibbles 0x9 chan, d0, d1]) s

/-- SHORT_A0 (R143). -/
def execShortA0 (chan : Nibble) (d0 d1 : Byte) (s : State) : Host.Outcome State Fault Refusal :=
  completeShort (Byte.ofNibbles 0xA chan) d0 (.unknown [Byte.ofNibbles 0xA chan, d0, d1]) s

/-- SHORT_B0 (R143). -/
def execShortB0 (chan : Nibble) (d0 d1 : Byte) (s : State) : Host.Outcome State Fault Refusal :=
  completeShort (Byte.ofNibbles 0xB chan) d0 (.unknown [Byte.ofNibbles 0xB chan, d0, d1]) s

/-- REPORT_ANALOG (R143). -/
def execReportAnalog (chan : Nibble) (d0 d1 : Byte) (s : State) : Host.Outcome State Fault Refusal :=
  completeShort (Byte.ofNibbles 0xC chan) d0 (.unknown [Byte.ofNibbles 0xC chan, d0, d1]) s

/-- REPORT_DIGITAL (R143). -/
def execReportDigital (chan : Nibble) (d0 d1 : Byte) (s : State) : Host.Outcome State Fault Refusal :=
  completeShort (Byte.ofNibbles 0xD chan) d0 (.unknown [Byte.ofNibbles 0xD chan, d0, d1]) s

/-- ANALOG (R141). -/
def execAnalog (chan : Nibble) (d0 d1 : Byte) (s : State) : Host.Outcome State Fault Refusal :=
  completeShort (Byte.ofNibbles 0xE chan) d0 (decodeAnalog (Byte.ofNibbles 0xE chan) d0 d1) s

/-- SHORT_F1 (R143). -/
def execShortF1 (d0 d1 : Byte) (s : State) : Host.Outcome State Fault Refusal :=
  completeShort 0xF1 d0 (.unknown [0xF1, d0, d1]) s

/-- SHORT_F2 (R143). -/
def execShortF2 (d0 d1 : Byte) (s : State) : Host.Outcome State Fault Refusal :=
  completeShort 0xF2 d0 (.unknown [0xF2, d0, d1]) s

/-- SHORT_F3 (R143). -/
def execShortF3 (d0 d1 : Byte) (s : State) : Host.Outcome State Fault Refusal :=
  completeShort 0xF3 d0 (.unknown [0xF3, d0, d1]) s

/-- PIN_MODE (R143). -/
def execPinMode (d0 d1 : Byte) (s : State) : Host.Outcome State Fault Refusal :=
  completeShort 0xF4 d0 (.unknown [0xF4, d0, d1]) s

/-- SHORT_F5 (R143). -/
def execShortF5 (d0 d1 : Byte) (s : State) : Host.Outcome State Fault Refusal :=
  completeShort 0xF5 d0 (.unknown [0xF5, d0, d1]) s

/-- SHORT_F6 (R143). -/
def execShortF6 (d0 d1 : Byte) (s : State) : Host.Outcome State Fault Refusal :=
  completeShort 0xF6 d0 (.unknown [0xF6, d0, d1]) s

/-- SHORT_F7 (R143). -/
def execShortF7 (d0 d1 : Byte) (s : State) : Host.Outcome State Fault Refusal :=
  completeShort 0xF7 d0 (.unknown [0xF7, d0, d1]) s

/-- SHORT_F8 (R143). -/
def execShortF8 (d0 d1 : Byte) (s : State) : Host.Outcome State Fault Refusal :=
  completeShort 0xF8 d0 (.unknown [0xF8, d0, d1]) s

/-- VERSION (R142). -/
def execVersion (d0 d1 : Byte) (s : State) : Host.Outcome State Fault Refusal :=
  completeShort 0xF9 d0 (decodeVersion d0 d1) s

/-- SHORT_FA (R143). -/
def execShortFA (d0 d1 : Byte) (s : State) : Host.Outcome State Fault Refusal :=
  completeShort 0xFA d0 (.unknown [0xFA, d0, d1]) s

/-- SHORT_FB (R143). -/
def execShortFB (d0 d1 : Byte) (s : State) : Host.Outcome State Fault Refusal :=
  completeShort 0xFB d0 (.unknown [0xFB, d0, d1]) s

/-- SHORT_FC (R143). -/
def execShortFC (d0 d1 : Byte) (s : State) : Host.Outcome State Fault Refusal :=
  completeShort 0xFC d0 (.unknown [0xFC, d0, d1]) s

/-- SHORT_FD (R143). -/
def execShortFD (d0 d1 : Byte) (s : State) : Host.Outcome State Fault Refusal :=
  completeShort 0xFD d0 (.unknown [0xFD, d0, d1]) s

/-- SHORT_FE (R143). -/
def execShortFE (d0 d1 : Byte) (s : State) : Host.Outcome State Fault Refusal :=
  completeShort 0xFE d0 (.unknown [0xFE, d0, d1]) s

/-- SHORT_FF (R143). -/
def execShortFF (d0 d1 : Byte) (s : State) : Host.Outcome State Fault Refusal :=
  completeShort 0xFF d0 (.unknown [0xFF, d0, d1]) s

end Sys2Proof.Machine
end

