-- ==== Sys2Proof/Machine/SysexMessages.lean ====
section
/-!
DEFINITION. The sysex rows (spec/42_decoder_sysex.md): the completed message is decoded, applied to BoardState and emitted,
and the reader returns to `Idle` (R104). `p` is the payload `acc[1:]`.
-/

namespace Sys2Proof.Machine

/-- FIRMWARE (R122, R128). -/
def execFirmware (p : List Byte) (s : State) : Host.Outcome State Fault Refusal :=
  completeSysex (Wire.subFirmware :: p) (decodeFirmware p) s

/-- CAPS (R123, R128). -/
def execCaps (p : List Byte) (s : State) : Host.Outcome State Fault Refusal :=
  completeSysex (Wire.subCaps :: p) (decodeCaps p) s

/-- AMAP (R124). -/
def execAmap (p : List Byte) (s : State) : Host.Outcome State Fault Refusal :=
  completeSysex (Wire.subAmap :: p) (decodeAmap p) s

/-- PINSTATE (R125, R128). -/
def execPinState (p : List Byte) (s : State) : Host.Outcome State Fault Refusal :=
  completeSysex (Wire.subPinState :: p) (decodePinState p) s

/-- I2CREPLY (R126, R128). -/
def execI2cReply (p : List Byte) (s : State) : Host.Outcome State Fault Refusal :=
  completeSysex (Wire.subI2cReply :: p) (decodeI2cReply p) s

/-- SYSEX_AMAP_QUERY (R127). -/
def execSysexAmapQuery (p : List Byte) (s : State) : Host.Outcome State Fault Refusal :=
  completeSysex (Wire.subAmapQuery :: p) (.unknown (Wire.subAmapQuery :: p)) s

/-- SYSEX_CAPS_QUERY (R127). -/
def execSysexCapsQuery (p : List Byte) (s : State) : Host.Outcome State Fault Refusal :=
  completeSysex (Wire.subCapsQuery :: p) (.unknown (Wire.subCapsQuery :: p)) s

/-- SYSEX_PINSTATE_QUERY (R127). -/
def execSysexPinStateQuery (p : List Byte) (s : State) : Host.Outcome State Fault Refusal :=
  completeSysex (Wire.subPinStateQuery :: p) (.unknown (Wire.subPinStateQuery :: p)) s

/-- SYSEX_I2C_REQUEST (R127). -/
def execSysexI2cRequest (p : List Byte) (s : State) : Host.Outcome State Fault Refusal :=
  completeSysex (Wire.subI2cRequest :: p) (.unknown (Wire.subI2cRequest :: p)) s

/-- SYSEX_I2C_CONFIG (R127). -/
def execSysexI2cConfig (p : List Byte) (s : State) : Host.Outcome State Fault Refusal :=
  completeSysex (Wire.subI2cConfig :: p) (.unknown (Wire.subI2cConfig :: p)) s

/-- SYSEX_SAMPLING_INTERVAL (R127). -/
def execSysexSamplingInterval (p : List Byte) (s : State) : Host.Outcome State Fault Refusal :=
  completeSysex (Wire.subSamplingInterval :: p) (.unknown (Wire.subSamplingInterval :: p)) s

/-- SYSEX_OTHER (R127): a subtype byte that is none of the eleven named ones. -/
def execSysexOther (sub : Byte) (p : List Byte) (s : State) : Host.Outcome State Fault Refusal :=
  if sub ∈ Wire.namedSubtypes then .fault .rowNotSelected else completeSysex (sub :: p) (.unknown (sub :: p)) s

/-- SYSEX_EMPTY (R121). -/
def execSysexEmpty (s : State) : Host.Outcome State Fault Refusal := completeSysex [] (.unknown []) s

end Sys2Proof.Machine
end

