-- ==== Sys2Proof/Machine/Dispatch.lean ====
section
/-!
DEFINITION. One arm per instruction, each one call of its meaning.
-/

namespace Sys2Proof.Machine

/-- The meaning of an instruction. -/
def exec (i : Instr) (s : State) : Host.Outcome State Fault Refusal :=
  match i with
  | .sysexStart => Sys2Proof.Machine.execSysexStart s
  | .shortStart b => Sys2Proof.Machine.execShortStart b s
  | .sysexEnd => Sys2Proof.Machine.execSysexEnd s
  | .sysexData b => Sys2Proof.Machine.execSysexData b s
  | .sysexOverflow b => Sys2Proof.Machine.execSysexOverflow b s
  | .shortData0 b => Sys2Proof.Machine.execShortData0 b s
  | .shortData1 b => Sys2Proof.Machine.execShortData1 b s
  | .errIdle => Sys2Proof.Machine.execErrIdle s
  | .errInSysex => Sys2Proof.Machine.execErrInSysex s
  | .errInShort => Sys2Proof.Machine.execErrInShort s
  | .short00 chan d0 d1 => Sys2Proof.Machine.execShort00 chan d0 d1 s
  | .short10 chan d0 d1 => Sys2Proof.Machine.execShort10 chan d0 d1 s
  | .short20 chan d0 d1 => Sys2Proof.Machine.execShort20 chan d0 d1 s
  | .short30 chan d0 d1 => Sys2Proof.Machine.execShort30 chan d0 d1 s
  | .short40 chan d0 d1 => Sys2Proof.Machine.execShort40 chan d0 d1 s
  | .short50 chan d0 d1 => Sys2Proof.Machine.execShort50 chan d0 d1 s
  | .short60 chan d0 d1 => Sys2Proof.Machine.execShort60 chan d0 d1 s
  | .short70 chan d0 d1 => Sys2Proof.Machine.execShort70 chan d0 d1 s
  | .short80 chan d0 d1 => Sys2Proof.Machine.execShort80 chan d0 d1 s
  | .digital chan d0 d1 => Sys2Proof.Machine.execDigital chan d0 d1 s
  | .shortA0 chan d0 d1 => Sys2Proof.Machine.execShortA0 chan d0 d1 s
  | .shortB0 chan d0 d1 => Sys2Proof.Machine.execShortB0 chan d0 d1 s
  | .reportAnalog chan d0 d1 => Sys2Proof.Machine.execReportAnalog chan d0 d1 s
  | .reportDigital chan d0 d1 => Sys2Proof.Machine.execReportDigital chan d0 d1 s
  | .analog chan d0 d1 => Sys2Proof.Machine.execAnalog chan d0 d1 s
  | .shortF1 d0 d1 => Sys2Proof.Machine.execShortF1 d0 d1 s
  | .shortF2 d0 d1 => Sys2Proof.Machine.execShortF2 d0 d1 s
  | .shortF3 d0 d1 => Sys2Proof.Machine.execShortF3 d0 d1 s
  | .pinMode d0 d1 => Sys2Proof.Machine.execPinMode d0 d1 s
  | .shortF5 d0 d1 => Sys2Proof.Machine.execShortF5 d0 d1 s
  | .shortF6 d0 d1 => Sys2Proof.Machine.execShortF6 d0 d1 s
  | .shortF7 d0 d1 => Sys2Proof.Machine.execShortF7 d0 d1 s
  | .shortF8 d0 d1 => Sys2Proof.Machine.execShortF8 d0 d1 s
  | .version d0 d1 => Sys2Proof.Machine.execVersion d0 d1 s
  | .shortFA d0 d1 => Sys2Proof.Machine.execShortFA d0 d1 s
  | .shortFB d0 d1 => Sys2Proof.Machine.execShortFB d0 d1 s
  | .shortFC d0 d1 => Sys2Proof.Machine.execShortFC d0 d1 s
  | .shortFD d0 d1 => Sys2Proof.Machine.execShortFD d0 d1 s
  | .shortFE d0 d1 => Sys2Proof.Machine.execShortFE d0 d1 s
  | .shortFF d0 d1 => Sys2Proof.Machine.execShortFF d0 d1 s
  | .firmware p => Sys2Proof.Machine.execFirmware p s
  | .caps p => Sys2Proof.Machine.execCaps p s
  | .amap p => Sys2Proof.Machine.execAmap p s
  | .pinState p => Sys2Proof.Machine.execPinState p s
  | .i2cReply p => Sys2Proof.Machine.execI2cReply p s
  | .sysexAmapQuery p => Sys2Proof.Machine.execSysexAmapQuery p s
  | .sysexCapsQuery p => Sys2Proof.Machine.execSysexCapsQuery p s
  | .sysexPinStateQuery p => Sys2Proof.Machine.execSysexPinStateQuery p s
  | .sysexI2cRequest p => Sys2Proof.Machine.execSysexI2cRequest p s
  | .sysexI2cConfig p => Sys2Proof.Machine.execSysexI2cConfig p s
  | .sysexSamplingInterval p => Sys2Proof.Machine.execSysexSamplingInterval p s
  | .sysexOther sub p => Sys2Proof.Machine.execSysexOther sub p s
  | .sysexEmpty => Sys2Proof.Machine.execSysexEmpty s
  | .decode14 lsb msb => Sys2Proof.Machine.execDecode14 lsb msb s
  | .encode7pair value => Sys2Proof.Machine.execEncode7pair value s
  | .packByteStream bytes => Sys2Proof.Machine.execPackByteStream bytes s
  | .unpackByteStream wire => Sys2Proof.Machine.execUnpackByteStream wire s
  | .decodeLe7 bytes => Sys2Proof.Machine.execDecodeLe7 bytes s
  | .portOfBitOf pin => Sys2Proof.Machine.execPortOfBitOf pin s
  | .txSetPinMode pin mode => Sys2Proof.Machine.execTxSetPinMode pin mode s
  | .txWriteDigital pin level => Sys2Proof.Machine.execTxWriteDigital pin level s
  | .txWriteAnalog pin value => Sys2Proof.Machine.execTxWriteAnalog pin value s
  | .txReportAnalog pin enable => Sys2Proof.Machine.execTxReportAnalog pin enable s
  | .txReportDigital port enable => Sys2Proof.Machine.execTxReportDigital port enable s
  | .txCapsQuery => Sys2Proof.Machine.execTxCapsQuery s
  | .txAmapQuery => Sys2Proof.Machine.execTxAmapQuery s
  | .txI2cRequest address regflags payload => Sys2Proof.Machine.execTxI2cRequest address regflags payload s
  | .txI2cConfig fields => Sys2Proof.Machine.execTxI2cConfig fields s
  | .txSamplingInterval fields => Sys2Proof.Machine.execTxSamplingInterval fields s
  | .txPinStateQuery fields => Sys2Proof.Machine.execTxPinStateQuery fields s

end Sys2Proof.Machine
end

