-- ==== Sys2Proof/Machine/Fetch.lean ====
section
/-!
DEFINITION. Taking the environment's next item (spec/41_framereader.md R100, spec/20_memory.md R31): which instruction runs,
on which state; and placing an instruction where the next step takes it.
-/

namespace Sys2Proof.Machine

/-- Codec functions and encoder operations: what a caller can invoke (R8). -/
def isCall (i : Instr) : Bool := decide (i.stage = .codec) || decide (i.stage = .tx)

/-- `RxNext()` (R6): the symbol leaves the stream and `pos` advances by one (R12). -/
def State.consume (s : State) : State := { s with pos := s.pos + 1 }

/-- The next item of the environment. With none the block waits where it is (R214). A symbol is consumed and read in the
reader's phase; a halted reader ignores it and consumes nothing (R112). -/
def fetch (s : State) : Fetched :=
  match s.env with
  | [] => .quiet s
  | .sym x :: rest =>
    match s.phase with
    | some ph => .run (decodeSymbol ph x) ({ s with env := rest } : State).consume
    | none => .quiet { s with env := rest }
  | .call i :: rest => if isCall i then .run i { s with env := rest } else .stop .notACall
  | .txLine up :: rest => .quiet { s with env := rest, txUp := up }
  | .rst :: rest => .quiet ({ s with env := rest } : State).resetInstance

/-- Present a symbol next. -/
def State.present (s : State) (x : Symbol) : State := { s with env := .sym x :: s.env }

/-- The reader about to read the last byte of a completed short message with this first byte. -/
def State.presentShort (s : State) (first d0 d1 : Byte) : State :=
  ({ s with rs := .inShort first (cmdOf first) (.one d0) } : State).present (.byte d1)

/-- The reader about to read the end marker of a sysex message with these bytes. -/
def State.presentSysex (s : State) (acc : List Byte) : State :=
  ({ s with rs := .inSysex acc } : State).present (.byte Wire.sysexEnd)

/-- The reader in the phase of a reader row. -/
def RState.ofPhase : Phase → RState
  | .idle => .idle
  | .inSysex _ => .inSysex []
  | .inShort false => .inShort 0 0 .two
  | .inShort true => .inShort 0 0 (.one 0)

/-- The parameters under which an empty accumulator is in a phase: a bound of 0 for a full one, and no bound of 0 for one
that is not full. -/
def Params.forPhase (cfg : Params) : Phase → Params
  | .inSysex true => { cfg with sysexMax := some 0 }
  | .inSysex false => if cfg.sysexMax = some 0 then { cfg with sysexMax := none } else cfg
  | _ => cfg

/-- The reader put into a phase. -/
def State.enterPhase (s : State) (ph : Phase) : State :=
  { s with rs := RState.ofPhase ph, cfg := Params.forPhase s.cfg ph }

/-- The state whose next step runs `i`: a call is queued; for a message row the reader holds the message and its last byte
is presented, so that the end row's step completes exactly that message; for a reader row the reader is in the row's
phase and the symbol is presented. -/
def State.place (s : State) (i : Instr) : State :=
  if isCall i then { s with env := .call i :: s.env }
  else
    match messageBytes i with
    | [] =>
      match i.phase with
      | some ph =>
        let s' : State := if s.phase = some ph then s else s.enterPhase ph
        { s' with env := (encode i).map .sym ++ s'.env }
      | none => s
    | [first, d0, d1] =>
      if first = Wire.sysexStart then s.presentSysex [d0] else s.presentShort first d0 d1
    | _ :: rest => s.presentSysex rest.dropLast

end Sys2Proof.Machine
end

