-- ==== Sys2Proof/Machine/Step.lean ====
section
/-!
DEFINITION. The step: the environment's next item is taken and the instruction it stands for is run.
-/

namespace Sys2Proof.Machine

/-- One step of the machine (R100). -/
def step (s : State) : Host.Outcome State Fault Refusal :=
  match fetch s with
  | .run i s' => exec i s'
  | .quiet s' => .next s'
  | .stop r => .refused r

/-- `s` with the instruction of a table word placed where the next step takes it (log entry 14). -/
def State.withFetchWord (s : State) (nbits w : Nat) : State :=
  match decodeTableWord nbits w with
  | some i => s.place i
  | none => s

end Sys2Proof.Machine
end

