-- ==== Sys2Proof/Machine/Stream.lean ====
section
/-!
DEFINITION. The textual items in which streams are written down (spec/30_encoding.md R64): each stands for the symbols
shown. FPD sees only the symbols.
-/

namespace Sys2Proof.Machine

/-- One item (R64). -/
inductive Item where
  | analog (pin : Nibble) (value : Nat)
  | version (major minor : Byte)
  | short (b0 b1 b2 : Byte)
  | sysex (sub : Byte) (body : List Byte)
  | firmware (major minor : Byte) (text : List Nat)
  | caps (pins : List (List (Byte × Byte)))
  | amap (entries : List Byte)
  | pinState (pin mode : Byte) (state : Nat)
  | i2cReply (addr reg : Nat) (bytes : List Byte)
  | byte (b : Byte)
  | err
  deriving DecidableEq, Repr

/-- The bytes of a number, 7 bits each, least significant first, at least one byte; `fuel` bounds their count. -/
def le7Bytes : Nat → Nat → List Byte
  | 0, n => [BitVec.ofNat 8 (n &&& 0x7F)]
  | fuel + 1, n => BitVec.ofNat 8 (n &&& 0x7F) :: if n >>> 7 = 0 then [] else le7Bytes fuel (n >>> 7)

/-- The payload of a capability response: per pin its (mode, resolution) pairs, then the terminator (R64, R123). -/
def capsBytes (pins : List (List (Byte × Byte))) : List Byte :=
  pins.flatMap fun l => (l.flatMap fun e => [e.1, e.2]) ++ [Wire.capEnd]

/-- The bytes of an item; `[]` for `ERR`, which is no byte. -/
def Item.bytes : Item → List Byte
  | .analog pin value => Byte.ofNibbles 0xE pin :: pairBytes value
  | .version major minor => [Wire.cmdVersion, major, minor]
  | .short b0 b1 b2 => [b0, b1, b2]
  | .sysex sub body => sysexBytes (sub :: body)
  | .firmware major minor text => sysexBytes (Wire.subFirmware :: major :: minor :: text.flatMap pairBytes)
  | .caps pins => sysexBytes (Wire.subCaps :: capsBytes pins)
  | .amap entries => sysexBytes (Wire.subAmap :: entries)
  | .pinState pin mode state => sysexBytes (Wire.subPinState :: pin :: mode :: le7Bytes state state)
  | .i2cReply addr reg bytes => sysexBytes (Wire.subI2cReply :: (pairBytes addr ++ pairBytes reg ++ packByteStream bytes))
  | .byte b => [b]
  | .err => []

/-- The symbols of an item. -/
def Item.symbols : Item → List Symbol
  | .err => [.err]
  | i => i.bytes.map .byte

end Sys2Proof.Machine
end

