-- ==== Sys2Proof/Safety.lean ====
section
/-!
DEFINITION. What claims mean by a good state and a safe run.
-/

namespace Sys2Proof.Machine

/-- What the reader state holds on every run: the accumulator has no end marker and is within `SYSEX_MAX` (R103, R110), and
the command of a short message is its first byte's, which is not the start marker (R102). -/
def RState.ok (cfg : Params) : RState → Bool
  | .idle => true
  | .inSysex acc =>
    bodyOk acc &&
      match cfg.sysexMax with
      | none => true
      | some n => decide (acc.length ≤ n)
  | .inShort first cmd _ => decide (first ≠ Wire.sysexStart) && decide (cmd = cmdOf first)
  | .halted _ => true

/-- Whether an event carries a message. -/
def Event.isMsg : Event → Bool
  | .msg _ => true
  | .fatal _ => false

/-- The output stream holds messages only, but for one fatal event, last, exactly when the reader is halted, with its
cause (R21, R191). -/
def outOk (rs : RState) (out : List Event) : Bool :=
  match rs with
  | .halted c => decide (out.getLast? = some (.fatal c)) && out.dropLast.all Event.isMsg
  | _ => out.all Event.isMsg

/-- The canonical form of the pin mode table: pins rising, below 128, none of them `input`. -/
def pinModesOk : List (Nat × PinMode) → Bool
  | [] => true
  | [e] => decide (e.1 < 128) && decide (e.2 ≠ .input)
  | e :: f :: rest => decide (e.1 < f.1) && decide (e.2 ≠ .input) && pinModesOk (f :: rest)

/-- The invariant of the machine. The last clause: each event was emitted by a step that consumed a symbol (R113). -/
def State.inv (s : State) : Bool :=
  s.rs.ok s.cfg && outOk s.rs s.out && pinModesOk s.board.pinModes && decide (s.out.length ≤ s.pos)

/-- The invariant, as a proposition. -/
abbrev State.Inv (s : State) : Prop := s.inv = true

/-- The reader has not failed: `Halted` "is a failure, not a normal end" (D8). -/
def State.running (s : State) : Prop := s.isHalted = false

/-- `k` steps from `s`: the host's `Core.run`, at the model's own types. -/
def runFor (k : Nat) (s : State) : Host.Outcome State Fault Refusal := core.run k s

/-- `k` steps from `s` are safe: they end in a next state that meets the invariant. -/
def SafeFor (k : Nat) (s : State) : Prop :=
  ∃ t, runFor k s = .next t ∧ State.Inv t

/-- A list of stimuli that only presents these symbols. -/
def presents (xs : List Symbol) : List Stimulus := xs.map .sym

end Sys2Proof.Machine
end

