-- ==== Sys2Proof/Certificates/Slice0/Obligations.lean ====
section
/-!
DEFINITION. The statements for the provers. Each says in its docstring which rule of spec/ it formalises, or, where it
rests on a decision, which one. A next state written as a record update is the whole effect and the whole frame.
-/

open Sys2Proof Sys2Proof.Machine

namespace Sys2Proof.Claims

/-- What an execution is observed by (R9): the output events and the reader state; with the cursor. -/
def observed (s : State) : RState × Nat × List Event := (s.rs, s.pos, s.out)

/-- The symbols the environment presents, the rest left out. -/
def symbolsOf (e : List Stimulus) : List Symbol :=
  e.filterMap fun x =>
    match x with
    | .sym y => some y
    | _ => none

/-- How many fatal events a stream holds. -/
def fatals (out : List Event) : Nat := (out.filter fun e => !e.isMsg).length

/-- A complete message on the wire (R50). -/
inductive WireMessage where
  | short (first d0 d1 : Byte)
  | sysex (acc : List Byte)

/-- The message's own constraint (R50, R52). -/
def WireMessage.Ok : WireMessage → Prop
  | .short first _ _ => first ≠ 0xF0
  | .sysex acc => ∀ b ∈ acc, b ≠ 0xF7

/-- Its bytes (R51, R52). -/
def WireMessage.bytes : WireMessage → List Byte
  | .short first d0 d1 => [first, d0, d1]
  | .sysex acc => 0xF0 :: acc ++ [0xF7]

/-- What the decoder makes of it (R120, R140). -/
def WireMessage.decoded : WireMessage → DecodedMessage
  | .short first d0 d1 => decodeShort first (cmdOf first) d0 d1
  | .sysex acc => decodeSysex acc

/-- The reader rows that append an event (R113). -/
def emits : Instr → Bool
  | .sysexEnd | .sysexOverflow _ | .shortData1 _ | .errIdle | .errInSysex | .errInShort => true
  | _ => false

/-- The sum a little-endian 7-bit field stands for in-protocol (R84). -/
def le7Sum : List Byte → Nat
  | [] => 0
  | b :: rest => b.toNat + 128 * le7Sum rest

/-- The stage of the table that a byte read in a phase is looked up in (R65, R100). -/
def stageOf : Phase → Stage
  | .idle => .idleByte
  | .inSysex _ => .insysexByte
  | .inShort _ => .inshortByte

/-- The stage of the row a symbol selects in a phase. -/
def symbolStage (ph : Phase) : Symbol → Stage
  | .byte _ => stageOf ph
  | .err => .err

/-- What a stream item must meet to stand for one message (R64, R52): values of 14 bits, no end marker in a sysex body, no
terminator where a mode stands, and for `SHORT` a first byte that starts a short message. -/
def itemOk : Item → Prop
  | .analog _ value => value ≤ 16383
  | .version _ _ => True
  | .short b0 _ _ => b0 ≠ 0xF0
  | .sysex sub body => sub ≠ 0xF7 ∧ ∀ b ∈ body, b ≠ 0xF7
  | .firmware major minor text => major ≠ 0xF7 ∧ minor ≠ 0xF7 ∧ ∀ c ∈ text, c ≤ 16383
  | .caps pins => ∀ l ∈ pins, ∀ e ∈ l, e.1 ≠ 127 ∧ e.1 ≠ 0xF7 ∧ e.2 ≠ 0xF7
  | .amap entries => ∀ e ∈ entries, e ≠ 0xF7
  | .pinState pin mode _ => pin ≠ 0xF7 ∧ mode ≠ 0xF7
  | .i2cReply addr reg _ => addr ≤ 16383 ∧ reg ≤ 16383
  | .byte _ => True
  | .err => True

/-- The message a stream item is written to mean (R64); `BYTE` and `ERR` stand for one symbol and no message. -/
def itemMeans : Item → Option DecodedMessage
  | .analog pin value => some (.analogValue pin (BitVec.ofNat 16 value))
  | .version major minor => some (.protocolVersion major minor)
  | .short b0 b1 b2 => some (decodeShort b0 (cmdOf b0) b1 b2)
  | .sysex sub body => some (decodeSysex (sub :: body))
  | .firmware major minor text => some (.firmwareReport major minor (text.map fun c => BitVec.ofNat 16 c))
  | .caps pins => some (.capabilityReport pins)
  | .amap entries => some (.analogMappingReport entries)
  | .pinState pin mode state => some (.pinStateReport pin mode state)
  | .i2cReply addr reg bytes =>
    some (.i2cReply (BitVec.ofNat 16 addr) (BitVec.ofNat 16 reg) (bytes.map fun b => b.setWidth 16))
  | .byte _ => none
  | .err => none

end Sys2Proof.Claims

open Sys2Proof.Claims

/-- R25 and R171 (both by decision D9), with the parameters at the defaults R5 gives: unbounded, and 127, which is
general knowledge and the model's choice (PRESUMED, log entry 3). -/
def Obligations.ResetLeavesReaderIdleAndTablesEmpty : Prop :=
  State.reset.rs = .idle ∧ State.reset.pos = 0 ∧ State.reset.out = [] ∧
  State.reset.board.captable = none ∧ State.reset.board.amap = none ∧
  State.reset.board.protover = none ∧ State.reset.board.fwver = none ∧
  (∀ p : Nibble, State.reset.board.port p = 0 ∧ State.reset.board.analog p = 0) ∧
  State.reset.cfg.sysexMax = none ∧ State.reset.cfg.unmapped = 127

/-- R205, R206 and R195 (decision D9). That `tx` and `ret` are emptied is the model's choice (log entry 6). -/
def Obligations.RstInputMakesNewInstance : Prop :=
  ∀ (s : State) (rest : List Stimulus), s.env = .rst :: rest →
    step s = .next { s with rs := .idle, pos := 0, out := [], board := Board.reset, tx := [], ret := [], env := rest }

/-- R112 and R214. That a wait and an ignored symbol are next states is the model's choice (log entries 1 and 2). -/
def Obligations.WaitingAndHaltedReadersStay : Prop :=
  (∀ s : State, s.env = [] → step s = .next s) ∧
  (∀ (s : State) (c : Cause) (x : Symbol) (rest : List Stimulus), s.rs = .halted c → s.env = .sym x :: rest →
    step s = .next { s with env := rest })

/-- R100: one symbol a step, `pos` advanced. The queue of stimuli is the model's (log entry 1), and so is the refusal of a
call of a reader or message row (DESIGN CHOICE, log entry 21). -/
def Obligations.StepRunsTheDecodedInstruction : Prop :=
  (∀ (s : State) (x : Symbol) (rest : List Stimulus) (ph : Phase), s.env = .sym x :: rest → s.phase = some ph →
    step s = exec (decodeSymbol ph x) { s with env := rest, pos := s.pos + 1 }) ∧
  (∀ (s : State) (i : Instr) (rest : List Stimulus), s.env = .call i :: rest → isCall i = true →
    step s = exec i { s with env := rest }) ∧
  (∀ (s : State) (i : Instr) (rest : List Stimulus), s.env = .call i :: rest → isCall i = false →
    step s = .refused .notACall) ∧
  (∀ (s : State) (up : Bool) (rest : List Stimulus), s.env = .txLine up :: rest →
    step s = .next { s with env := rest, txUp := up })

/-- R104, R106: the decoder stage runs inside the step that completes the message; the rows are those of R65. -/
def Obligations.LastSymbolRunsTheMessageRow : Prop :=
  (∀ (s : State) (acc : List Byte), s.rs = .inSysex acc → exec .sysexEnd s = exec (sysexRow acc) s) ∧
  (∀ (s : State) (first d0 b : Byte), first ≠ 0xF0 → s.rs = .inShort first (cmdOf first) (.one d0) →
    ∃ i, shortRow first d0 b = some i ∧ exec (.shortData1 b) s = exec i s)

/-- R101 and R102. -/
def Obligations.IdleSymbolOpensAMessage : Prop :=
  ∀ s : State, s.rs = .idle →
    exec .sysexStart s = .next { s with rs := .inSysex [] } ∧
    ∀ b : Byte, b ≠ 0xF0 →
      exec (.shortStart b) s =
        .next { s with rs := .inShort b (if b.toNat < 0xF0 then b &&& 0xF0 else b) .two }

/-- R103. -/
def Obligations.ContinuationByteIsAppended : Prop :=
  ∀ (s : State) (acc : List Byte) (b : Byte), s.rs = .inSysex acc → b ≠ 0xF7 →
    (∀ n, s.cfg.sysexMax = some n → acc.length < n) →
    exec (.sysexData b) s = .next { s with rs := .inSysex (acc ++ [b]) }

/-- R110 (decision D5) with R190. -/
def Obligations.FullAccumulatorOverflows : Prop :=
  ∀ (s : State) (acc : List Byte) (b : Byte), s.rs = .inSysex acc → b ≠ 0xF7 → s.cfg.sysexMax = some acc.length →
    (s.phase.map fun ph => decodeSymbol ph (.byte b)) = some (.sysexOverflow b) ∧
    exec (.sysexOverflow b) s =
      .next { s with rs := .halted .accOverflow, out := s.out ++ [.fatal .accOverflow] }

/-- R104 and R172. -/
def Obligations.EndMarkerCompletesTheMessage : Prop :=
  ∀ (s : State) (acc : List Byte), s.rs = .inSysex acc →
    exec .sysexEnd s =
      .next { s with
        rs := .idle
        board := s.board.update s.cfg (decodeSysex acc)
        out := s.out ++ [.msg (decodeSysex acc)] }

/-- R105 (decision D4). -/
def Obligations.FirstDataByteIsStored : Prop :=
  ∀ (s : State) (first cmd b : Byte), s.rs = .inShort first cmd .two →
    exec (.shortData0 b) s = .next { s with rs := .inShort first cmd (.one b) }

/-- R106 and R172. -/
def Obligations.SecondDataByteCompletesTheMessage : Prop :=
  ∀ (s : State) (first cmd d0 b : Byte), s.rs = .inShort first cmd (.one d0) →
    exec (.shortData1 b) s =
      .next { s with
        rs := .idle
        board := s.board.update s.cfg (decodeShort first cmd d0 b)
        out := s.out ++ [.msg (decodeShort first cmd d0 b)] }

/-- R107 to R109 and R190; the two causes by decision D16. -/
def Obligations.TransportFailureHaltsTheReader : Prop :=
  (∀ s : State, s.rs = .idle →
    exec .errIdle s =
      .next { s with rs := .halted .transportError, out := s.out ++ [.fatal .transportError] }) ∧
  (∀ (s : State) (acc : List Byte), s.rs = .inSysex acc →
    exec .errInSysex s =
      .next { s with rs := .halted .malformedFrame, out := s.out ++ [.fatal .malformedFrame] }) ∧
  (∀ (s : State) (first cmd : Byte) (n : Remaining), s.rs = .inShort first cmd n →
    exec .errInShort s =
      .next { s with rs := .halted .malformedFrame, out := s.out ++ [.fatal .malformedFrame] })

/-- R143 for the fourteen channel rows (`raw` by decision D11). -/
def Obligations.ChannelRowsWithoutDecodeAreUnknown : Prop :=
  ∀ (s : State) (c : Nibble) (d0 d1 : Byte),
    ∀ row ∈ ([(0x0, Instr.short00 c d0 d1),
        (0x1, Instr.short10 c d0 d1),
        (0x2, Instr.short20 c d0 d1),
        (0x3, Instr.short30 c d0 d1),
        (0x4, Instr.short40 c d0 d1),
        (0x5, Instr.short50 c d0 d1),
        (0x6, Instr.short60 c d0 d1),
        (0x7, Instr.short70 c d0 d1),
        (0x8, Instr.short80 c d0 d1),
        (0x9, Instr.digital c d0 d1),
        (0xA, Instr.shortA0 c d0 d1),
        (0xB, Instr.shortB0 c d0 d1),
        (0xC, Instr.reportAnalog c d0 d1),
        (0xD, Instr.reportDigital c d0 d1)] : List (Nibble × Instr)),
      let first : Byte := row.1 ++ c
      s.rs = .inShort first (first &&& 0xF0) (.one d0) →
        exec row.2 s = .next { s with rs := .idle, out := s.out ++ [.msg (.unknown [first, d0, d1])] }

/-- R143 for the fourteen whole-byte rows (`raw` by decision D11). -/
def Obligations.WholeByteRowsWithoutDecodeAreUnknown : Prop :=
  ∀ (s : State) (d0 d1 : Byte),
    ∀ row ∈ ([(0xF1, Instr.shortF1 d0 d1),
        (0xF2, Instr.shortF2 d0 d1),
        (0xF3, Instr.shortF3 d0 d1),
        (0xF4, Instr.pinMode d0 d1),
        (0xF5, Instr.shortF5 d0 d1),
        (0xF6, Instr.shortF6 d0 d1),
        (0xF7, Instr.shortF7 d0 d1),
        (0xF8, Instr.shortF8 d0 d1),
        (0xFA, Instr.shortFA d0 d1),
        (0xFB, Instr.shortFB d0 d1),
        (0xFC, Instr.shortFC d0 d1),
        (0xFD, Instr.shortFD d0 d1),
        (0xFE, Instr.shortFE d0 d1),
        (0xFF, Instr.shortFF d0 d1)] : List (Byte × Instr)),
      s.rs = .inShort row.1 row.1 (.one d0) →
        exec row.2 s = .next { s with rs := .idle, out := s.out ++ [.msg (.unknown [row.1, d0, d1])] }

/-- R141 and R176; bits above the protocol by R80 (decision D13). -/
def Obligations.AnalogMessageDeliversItsValue : Prop :=
  ∀ (s : State) (c : Nibble) (d0 d1 : Byte), s.rs = .inShort (0xE#4 ++ c) 0xE0 (.one d0) →
    ∃ v : Half, v.toNat = d0.toNat ||| (d1.toNat <<< 7) ∧
      (d0.toNat < 128 → d1.toNat < 128 → v.toNat = d0.toNat + 128 * d1.toNat) ∧
      exec (.analog c d0 d1) s =
        .next { s with
          rs := .idle
          out := s.out ++ [.msg (.analogValue c v)]
          board := s.board.setAnalog c (d0.toNat ||| (d1.toNat <<< 7)) }

/-- R142 and R177. -/
def Obligations.VersionMessageDeliversItsBytes : Prop :=
  ∀ (s : State) (d0 d1 : Byte), s.rs = .inShort 0xF9 0xF9 (.one d0) →
    exec (.version d0 d1) s =
      .next { s with
        rs := .idle
        out := s.out ++ [.msg (.protocolVersion d0 d1)]
        board := { s.board with protover := some (d0, d1) } }

/-- R122, R173; the ill-fitting lengths by R128 (decision D10). -/
def Obligations.FirmwareReportIsUnpackedOrUnknown : Prop :=
  (∀ (s : State) (major minor : Byte) (name : List Byte),
    s.rs = .inSysex (0x79 :: major :: minor :: name) → name.length % 2 = 0 →
    exec (.firmware (major :: minor :: name)) s =
      .next { s with
        rs := .idle
        out := s.out ++ [.msg (.firmwareReport major minor (unpackPairs name))]
        board := { s.board with fwver := some (major, minor) } }) ∧
  (∀ (s : State) (p : List Byte), s.rs = .inSysex (0x79 :: p) → p.length < 2 ∨ p.length % 2 = 1 →
    exec (.firmware p) s = .next { s with rs := .idle, out := s.out ++ [.msg (.unknown (0x79 :: p))] })

/-- R123 and R174 (a second response by decision D22). -/
def Obligations.CapabilityListsAreDeliveredPerPin : Prop :=
  ∀ (s : State) (pins : List (List (Byte × Byte))), (∀ l ∈ pins, ∀ e ∈ l, e.1 ≠ 127) →
    s.rs = .inSysex (0x6C :: capsBytes pins) →
    exec (.caps (capsBytes pins)) s =
      .next { s with
        rs := .idle
        out := s.out ++ [.msg (.capabilityReport pins)]
        board := { s.board with captable := some (s.board.captable.getD pins) } }

/-- R123 read as a grammar, with R128 (decision D10). -/
def Obligations.CapabilityPayloadTilesOrIsUnknown : Prop :=
  ∀ (s : State) (p : List Byte), s.rs = .inSysex (0x6C :: p) →
    (∃ pins : List (List (Byte × Byte)), (∀ l ∈ pins, ∀ e ∈ l, e.1 ≠ 127) ∧ p = capsBytes pins ∧
      ∃ t, exec (.caps p) s = .next t ∧ t.out = s.out ++ [.msg (.capabilityReport pins)]) ∨
    ((∀ pins : List (List (Byte × Byte)), (∀ l ∈ pins, ∀ e ∈ l, e.1 ≠ 127) → p ≠ capsBytes pins) ∧
      exec (.caps p) s = .next { s with rs := .idle, out := s.out ++ [.msg (.unknown (0x6C :: p))] })

/-- R124 and R175 (decisions D12, D22). -/
def Obligations.AnalogMappingFillsItsTableOnce : Prop :=
  ∀ (s : State) (p : List Byte), s.rs = .inSysex (0x6A :: p) →
    exec (.amap p) s =
      .next { s with
        rs := .idle
        out := s.out ++ [.msg (.analogMappingReport p)]
        board := { s.board with
          amap := some (s.board.amap.getD
            (p.map fun e => if e = s.cfg.unmapped then AmapEntry.unmapped else AmapEntry.channel e)) } }

/-- R125, R178; the ill-fitting lengths by R128 (decision D10). -/
def Obligations.PinStateReportIsAnIntegerOrUnknown : Prop :=
  (∀ (s : State) (pin mode : Byte) (state : List Byte), s.rs = .inSysex (0x6E :: pin :: mode :: state) →
    exec (.pinState (pin :: mode :: state)) s =
      .next { s with rs := .idle, out := s.out ++ [.msg (.pinStateReport pin mode (decodeLe7 state))] }) ∧
  (∀ (s : State) (p : List Byte), s.rs = .inSysex (0x6E :: p) → p.length < 2 →
    exec (.pinState p) s = .next { s with rs := .idle, out := s.out ++ [.msg (.unknown (0x6E :: p))] })

/-- R126, R178; the ill-fitting lengths by R128 (decision D10). -/
def Obligations.I2cReplyIsDecodedOrUnknown : Prop :=
  (∀ (s : State) (a0 a1 r0 r1 : Byte) (payload : List Byte),
    s.rs = .inSysex (0x77 :: a0 :: a1 :: r0 :: r1 :: payload) → payload.length % 2 = 0 →
    exec (.i2cReply (a0 :: a1 :: r0 :: r1 :: payload)) s =
      .next { s with
        rs := .idle
        out := s.out ++ [.msg (.i2cReply (decode14 a0 a1) (decode14 r0 r1) (unpackPairs payload))] }) ∧
  (∀ (s : State) (p : List Byte), s.rs = .inSysex (0x77 :: p) → p.length < 4 ∨ p.length % 2 = 1 →
    exec (.i2cReply p) s = .next { s with rs := .idle, out := s.out ++ [.msg (.unknown (0x77 :: p))] })

/-- R127 (`raw` by decision D11) and R121 (decision D20). -/
def Obligations.OtherSubtypesAreUnknown : Prop :=
  (∀ (s : State) (p : List Byte),
    ∀ row ∈ ([(0x69, Instr.sysexAmapQuery p), (0x6B, Instr.sysexCapsQuery p), (0x6D, Instr.sysexPinStateQuery p),
        (0x76, Instr.sysexI2cRequest p), (0x78, Instr.sysexI2cConfig p),
        (0x7A, Instr.sysexSamplingInterval p)] : List (Byte × Instr)),
      s.rs = .inSysex (row.1 :: p) →
        exec row.2 s = .next { s with rs := .idle, out := s.out ++ [.msg (.unknown (row.1 :: p))] }) ∧
  (∀ (s : State) (sub : Byte) (p : List Byte),
    sub ∉ ([0x69, 0x6A, 0x6B, 0x6C, 0x6D, 0x6E, 0x76, 0x77, 0x78, 0x79, 0x7A] : List Byte) →
    s.rs = .inSysex (sub :: p) →
    exec (.sysexOther sub p) s = .next { s with rs := .idle, out := s.out ++ [.msg (.unknown (sub :: p))] }) ∧
  (∀ s : State, s.rs = .inSysex [] →
    exec .sysexEmpty s = .next { s with rs := .idle, out := s.out ++ [.msg (.unknown [])] })

/-- R129 and R144 (both derived by the spec), with the empty message of R121 (decision D20); the lengths by decision D10. -/
def Obligations.UnknownExactlyWhenNothingFits : Prop :=
  decodeSysex [] = .unknown [] ∧
  (∀ (acc raw : List Byte), decodeSysex acc = .unknown raw →
    raw = acc ∧ ∀ (sub : Byte) (p : List Byte), acc = sub :: p →
      (sub = 0x79 → p.length < 2 ∨ p.length % 2 = 1) ∧ (sub = 0x6C → parseCaps p = none) ∧ sub ≠ 0x6A ∧
      (sub = 0x6E → p.length < 2) ∧ (sub = 0x77 → p.length < 4 ∨ p.length % 2 = 1)) ∧
  (∀ (sub : Byte) (p : List Byte),
    sub ∉ ([0x79, 0x6C, 0x6A, 0x6E, 0x77] : List Byte) ∨ (sub = 0x79 ∧ (p.length < 2 ∨ p.length % 2 = 1)) ∨
      (sub = 0x6C ∧ parseCaps p = none) ∨ (sub = 0x6E ∧ p.length < 2) ∨
      (sub = 0x77 ∧ (p.length < 4 ∨ p.length % 2 = 1)) →
    decodeSysex (sub :: p) = .unknown (sub :: p)) ∧
  (∀ (acc : List Byte), (∀ pin v, decodeSysex acc ≠ .analogValue pin v) ∧ ∀ a b, decodeSysex acc ≠ .protocolVersion a b) ∧
  (∀ (first cmd d0 d1 : Byte),
    (∃ raw, decodeShort first cmd d0 d1 = .unknown raw) ↔ cmd ≠ 0xE0 ∧ cmd ≠ 0xF9) ∧
  (∀ (first cmd d0 d1 : Byte) (raw : List Byte), decodeShort first cmd d0 d1 = .unknown raw → raw = [first, d0, d1]) ∧
  (∀ (first cmd d0 d1 : Byte),
    (∀ a b n, decodeShort first cmd d0 d1 ≠ .firmwareReport a b n) ∧
    (∀ pins, decodeShort first cmd d0 d1 ≠ .capabilityReport pins) ∧
    (∀ map, decodeShort first cmd d0 d1 ≠ .analogMappingReport map) ∧
    (∀ pin mode state, decodeShort first cmd d0 d1 ≠ .pinStateReport pin mode state) ∧
    ∀ a r p, decodeShort first cmd d0 d1 ≠ .i2cReply a r p)

/-- R80 and R81. The record of returned values is the model's (log entry 4). -/
def Obligations.Decode14AndEncode7pairReturnTheirValues : Prop :=
  (∀ (s : State) (lsb msb : Byte), ∃ v : Half, v.toNat = lsb.toNat ||| (msb.toNat <<< 7) ∧
    exec (.decode14 lsb msb) s = .next { s with ret := s.ret ++ [.half v] }) ∧
  (∀ (s : State) (value : Nat), ∃ l m : Byte, l.toNat < 128 ∧ m.toNat < 128 ∧
    (value ≤ 16383 → l.toNat = value % 128 ∧ m.toNat = value / 128) ∧
    exec (.encode7pair value) s = .next { s with ret := s.ret ++ [.pair l m] })

/-- R82. The record of returned values is the model's (DESIGN CHOICE, log entry 4). -/
def Obligations.PackSplitsEveryByteInOrder : Prop :=
  ∀ (s : State) (bs : List Byte), ∃ ws : List Byte,
    exec (.packByteStream bs) s = .next { s with ret := s.ret ++ [.bytes ws] } ∧ ws.length = 2 * bs.length ∧
    ∀ (i : Nat) (b : Byte), bs[i]? = some b →
      ws[2 * i]? = some (b &&& 0x7F) ∧ ws[2 * i + 1]? = some ((b >>> 7) &&& 0x7F)

/-- R83 (decision D14). The odd length is a free value (log entry 8). -/
def Obligations.UnpackJoinsPairsInOrder : Prop :=
  ∀ (s : State) (wire : List Byte), ∃ vs : List Half,
    exec (.unpackByteStream wire) s = .next { s with ret := s.ret ++ [.halves vs] } ∧
    (wire.length % 2 = 0 → 2 * vs.length = wire.length ∧
      ∀ (i : Nat) (lo hi : Byte), wire[2 * i]? = some lo → wire[2 * i + 1]? = some hi →
        vs[i]? = some (decode14 lo hi))

/-- R84 (decision D15). -/
def Obligations.DecodeLe7ReturnsTheOrOfShiftedBytes : Prop :=
  ∀ (s : State) (bs : List Byte), ∃ n : Nat,
    exec (.decodeLe7 bs) s = .next { s with ret := s.ret ++ [.nat n] } ∧
    (∀ j, n.testBit j = true ↔ ∃ (k : Nat) (b : Byte), bs[k]? = some b ∧ 7 * k ≤ j ∧ b.toNat.testBit (j - 7 * k) = true) ∧
    ((∀ b ∈ bs, b.toNat < 128) → n = le7Sum bs) ∧ n < 2 ^ (7 * bs.length + 1)

/-- R88 (the bit order is general knowledge, G3). Following the formula for a byte above 127 is the model's choice (log
entry 17), and the record of returned values is the model's (log entry 4). -/
def Obligations.PortAndBitOfAPin : Prop :=
  ∀ (s : State) (pin : Byte), ∃ port bit : Byte, port.toNat = pin.toNat / 8 ∧ bit.toNat = pin.toNat % 8 ∧
    exec (.portOfBitOf pin) s = .next { s with ret := s.ret ++ [.portBit port bit] }

/-- R85, R86 and R87. -/
def Obligations.CodecRoundTrips : Prop :=
  (∀ v : Nat, v ≤ 16383 → (decode14 (encode7pair v).1 (encode7pair v).2).toNat = v) ∧
  (∀ l m : Byte, l.toNat < 128 → m.toNat < 128 → encode7pair (decode14 l m).toNat = (l, m)) ∧
  (∀ bs : List Byte, unpackByteStream (packByteStream bs) = bs.map fun b => b.setWidth 16)

/-- R150, R151 (pin before mode by general knowledge, log entry 11), R154 and R155. That set pin mode writes no pin's mode
is the model's choice where the spec is silent (DESIGN CHOICE, log entry 7: R170, N25); the record of results is log entry 4. -/
def Obligations.ShortFramesAreWritten : Prop :=
  ∀ s : State, s.txUp = true →
    (∀ pin mode : Nat,
      exec (.txSetPinMode pin mode) s =
        .next { s with
          tx := s.tx ++ [[0xF4, BitVec.ofNat 8 (pin % 128), BitVec.ofNat 8 (mode % 128)]]
          ret := s.ret ++ [.written] }) ∧
    (∀ n enable : Byte, n.toNat ≤ 15 → enable.toNat ≤ 1 →
      exec (.txReportAnalog n enable) s =
        .next { s with tx := s.tx ++ [[0xC0 ||| n, enable]], ret := s.ret ++ [.written] } ∧
      exec (.txReportDigital n enable) s =
        .next { s with tx := s.tx ++ [[0xD0 ||| n, enable]], ret := s.ret ++ [.written] })

/-- R152 and R179; the place of a pin in its port byte is general knowledge (R88, G3). -/
def Obligations.WriteDigitalKeepsSiblingBits : Prop :=
  ∀ (s : State) (pin level : Byte), s.txUp = true → pin.toNat ≤ 127 → level.toNat ≤ 1 →
    let port : Nibble := BitVec.ofNat 4 (pin.toNat / 8)
    ∃ byte : Byte,
      (∀ j, j < 8 → byte.getLsbD j = if j = pin.toNat % 8 then decide (level = 1) else (s.board.port port).getLsbD j) ∧
      exec (.txWriteDigital pin level) s =
        .next { s with
          board := s.board.setPort port byte
          tx := s.tx ++ [[0x90 ||| BitVec.ofNat 8 (pin.toNat / 8), byte &&& 0x7F, byte >>> 7]]
          ret := s.ret ++ [.written] }

/-- R153 with R150; a value above 16383 by R81 (log entry 10). -/
def Obligations.WriteAnalogSendsAndCaches : Prop :=
  ∀ (s : State) (pin : Byte) (value : Nat), s.txUp = true → pin.toNat ≤ 15 →
    ∃ l m : Byte, l.toNat < 128 ∧ m.toNat < 128 ∧ (value ≤ 16383 → l.toNat = value % 128 ∧ m.toNat = value / 128) ∧
      exec (.txWriteAnalog pin value) s =
        .next { s with
          board := s.board.setAnalog (BitVec.ofNat 4 pin.toNat) value
          tx := s.tx ++ [[0xE0 ||| pin, l, m]]
          ret := s.ret ++ [.written] }

/-- R156 to R161: "every multi-byte field uses `encode7pair`". Which fields there are is the caller's to say (log entry 12). -/
def Obligations.SysexFramesAreWritten : Prop :=
  (∀ b : Byte, fieldBytes (.byte b) = [b]) ∧
  (∀ value : Nat, ∃ l m : Byte, fieldBytes (.wide value) = [l, m] ∧ l.toNat < 128 ∧ m.toNat < 128 ∧
    (value ≤ 16383 → l.toNat = value % 128 ∧ m.toNat = value / 128)) ∧
  (fieldsBytes [] = [] ∧ ∀ (f : TxField) (fs : List TxField), fieldsBytes (f :: fs) = fieldBytes f ++ fieldsBytes fs) ∧
  ∀ s : State, s.txUp = true →
    exec .txCapsQuery s = .next { s with tx := s.tx ++ [[0xF0, 0x6B, 0xF7]], ret := s.ret ++ [.written] } ∧
    exec .txAmapQuery s = .next { s with tx := s.tx ++ [[0xF0, 0x69, 0xF7]], ret := s.ret ++ [.written] } ∧
    (∀ (address regflags : List TxField) (payload : List Byte),
      exec (.txI2cRequest address regflags payload) s =
        .next { s with
          tx := s.tx ++
            [0xF0 :: 0x76 :: (fieldsBytes address ++ fieldsBytes regflags ++ packByteStream payload) ++ [0xF7]]
          ret := s.ret ++ [.written] }) ∧
    (∀ fields : List TxField,
      ∀ row ∈ ([(0x78, Instr.txI2cConfig fields), (0x7A, Instr.txSamplingInterval fields),
          (0x6D, Instr.txPinStateQuery fields)] : List (Byte × Instr)),
        exec row.2 s =
          .next { s with tx := s.tx ++ [0xF0 :: row.1 :: fieldsBytes fields ++ [0xF7]], ret := s.ret ++ [.written] })

/-- R150 and R197; the cache by U16 (log entry 9). That a failed write sends no part of its frame is the model's reading and
choice (DEDUCED and DESIGN CHOICE, log entry 5). -/
def Obligations.FailedWriteReportsAndSendsNothing : Prop :=
  ∀ s : State, s.txUp = false →
    (∀ (pin mode : Nat) (n enable : Byte) (address regflags fields : List TxField) (payload : List Byte),
      n.toNat ≤ 15 → enable.toNat ≤ 1 →
      ∀ i ∈ [Instr.txSetPinMode pin mode, .txReportAnalog n enable, .txReportDigital n enable, .txCapsQuery,
          .txAmapQuery, .txI2cRequest address regflags payload, .txI2cConfig fields, .txSamplingInterval fields,
          .txPinStateQuery fields],
        exec i s = .next { s with ret := s.ret ++ [.transportError] }) ∧
    (∀ pin level : Byte, pin.toNat ≤ 127 → level.toNat ≤ 1 →
      ∃ b : Board,
        exec (.txWriteDigital pin level) s =
          .next { s with board := b, ret := s.ret ++ [.transportError], draws := s.draws + 1 } ∧
        (b = s.board ∨
          ∃ byte : Byte, b = s.board.setPort (BitVec.ofNat 4 (pin.toNat / 8)) byte ∧
            ∀ j, j < 8 → byte.getLsbD j =
              if j = pin.toNat % 8 then decide (level = 1)
              else (s.board.port (BitVec.ofNat 4 (pin.toNat / 8))).getLsbD j)) ∧
    (∀ (pin : Byte) (value : Nat), pin.toNat ≤ 15 →
      ∃ b : Board,
        exec (.txWriteAnalog pin value) s =
          .next { s with board := b, ret := s.ret ++ [.transportError], draws := s.draws + 1 } ∧
        (b = s.board ∨ b = s.board.setAnalog (BitVec.ofNat 4 pin.toNat) value))

/-- U6 and D23: "a model should refuse out-of-range arguments" (log entry 18). The ranges are U6's: a value of write analog
above 16383 is U1's case, not U6's, and is not refused (log entry 10). -/
def Obligations.OutOfRangeArgumentsAreRefused : Prop :=
  (∀ (s : State) (pin level : Byte), 127 < pin.toNat ∨ 1 < level.toNat →
    exec (.txWriteDigital pin level) s = .refused .argumentOutOfRange) ∧
  (∀ (s : State) (pin : Byte) (value : Nat), 15 < pin.toNat →
    exec (.txWriteAnalog pin value) s = .refused .argumentOutOfRange) ∧
  (∀ (s : State) (n enable : Byte), 15 < n.toNat ∨ 1 < enable.toNat →
    exec (.txReportAnalog n enable) s = .refused .argumentOutOfRange ∧
    exec (.txReportDigital n enable) s = .refused .argumentOutOfRange)

/-- R162, the first property of the document's section 8. -/
def Obligations.AnalogFrameReproducesTheMessage : Prop :=
  ∀ (s : State) (c : Nibble) (d0 d1 : Byte), s.txUp = true → d0.toNat < 128 → d1.toNat < 128 →
    ∃ v : Half, decodeShort (0xE#4 ++ c) 0xE0 d0 d1 = .analogValue c v ∧
      ∃ t, exec (.txWriteAnalog (c.setWidth 8) v.toNat) s = .next t ∧ t.tx = s.tx ++ [[0xE#4 ++ c, d0, d1]]

/-- R156 and R213: neither packing nor `encode7pair` produces a byte above 0x7F. -/
def Obligations.InProtocolFramesAreReadBackWhole : Prop :=
  (∀ (sub : Byte) (fields : List Byte), sub ≠ 0xF7 → (∀ b ∈ fields, b.toNat < 128) →
    decodeMessage (sysexFrame sub fields) = .ok (sysexRow (sub :: fields), [])) ∧
  (∀ payload : List Byte, ∀ b ∈ packByteStream payload, b.toNat < 128) ∧
  (∀ fields : List TxField, (∀ b : Byte, .byte b ∈ fields → b.toNat < 128) → ∀ b ∈ fieldsBytes fields, b.toNat < 128)

/-- R65, stage tx. -/
def Obligations.TransmittedFramesSelectTheirRows : Prop :=
  ∀ (i : Instr) (s t : State), i.stage = .tx → s.txUp = true → exec i s = .next t →
    ∃ frame : List Byte, t.tx = s.tx ++ [frame] ∧
      ∃ b : Byte, (if frame.head? = some 0xF0 then frame[1]? else frame[0]?) = some b ∧
        selectRow .tx none b = some i.mnemonic

/-- R50 to R52 and the opcode maps R56, R58. -/
def Obligations.MessageRoundTrip : Prop :=
  ∀ (i : Instr) (rest : List Byte), i.wf = true → (i.stage = .shortFirst ∨ i.stage = .sysexSubtype) →
    decodeMessage (messageBytes i ++ rest) = .ok (i, rest)

/-- R53 and R115: left to right, nothing left between messages. -/
def Obligations.DecodedMessageIsItsBytes : Prop :=
  ∀ (bs : List Byte) (i : Instr) (rest : List Byte), decodeMessage bs = .ok (i, rest) →
    messageBytes i ++ rest = bs ∧ i.wf = true ∧ (i.stage = .shortFirst ∨ i.stage = .sysexSubtype)

/-- R59 and the nine cases of R100. -/
def Obligations.SymbolRowsRoundTrip : Prop :=
  (∀ (i : Instr) (ph : Phase), i.wf = true → i.phase = some ph →
    ∃ x, encode i = [x] ∧ decodeSymbol ph x = i) ∧
  (∀ (ph : Phase) (x : Symbol), (decodeSymbol ph x).wf = true ∧ encode (decodeSymbol ph x) = [x] ∧
    (decodeSymbol ph x).stage = symbolStage ph x) ∧
  decodeSymbol .idle .err = .errIdle ∧
  (∀ full : Bool, decodeSymbol (.inSysex full) (.byte 0xF7) = .sysexEnd ∧
    decodeSymbol (.inSysex full) .err = .errInSysex) ∧
  (∀ last : Bool, decodeSymbol (.inShort last) .err = .errInShort)

/-- R65: "Rows of one stage do not overlap". -/
def Obligations.DecoderFollowsTheOpcodeTable : Prop :=
  (∀ (ph : Phase) (b : Byte),
    some (decodeSymbol ph (.byte b)).mnemonic = selectRow (stageOf ph) (some ph) b) ∧
  (∀ first d0 d1 : Byte, first ≠ 0xF0 →
    (shortRow first d0 d1).map Instr.mnemonic = selectRow .shortFirst none first) ∧
  (∀ (sub : Byte) (p : List Byte), some (sysexRow (sub :: p)).mnemonic = selectRow .sysexSubtype none sub) ∧
  (∀ (r q : Row) (b : Byte), r ∈ opcodeRows → q ∈ opcodeRows → r.stage = q.stage →
    r.dflt = false → q.dflt = false → r.cond = none → q.cond = none →
    b &&& r.mask = r.bits → b &&& q.mask = q.bits → r = q)

/-- Words from the examples of 42, 43 and 95_test_vectors.md. -/
def Obligations.WordsOfTheSpecDecode : Prop :=
  decodeMessage [0xE3, 0x7F, 0x01] = .ok (.analog 3 0x7F 0x01, []) ∧
  decodeMessage [0xF9, 0x02, 0x05] = .ok (.version 0x02 0x05, []) ∧
  decodeMessage [0x91, 0x30, 0x00] = .ok (.digital 1 0x30 0x00, []) ∧
  decodeMessage [0xF4, 0x0D, 0x01] = .ok (.pinMode 0x0D 0x01, []) ∧
  decodeMessage [0xF0, 0x6C, 0x00, 0x01, 0x7F, 0xF7] = .ok (.caps [0x00, 0x01, 0x7F], []) ∧
  decodeMessage [0xF0, 0xF7] = .ok (.sysexEmpty, []) ∧
  decodeMessage [0xF0, 0xF0, 0x79, 0xF7] = .ok (.sysexOther 0xF0 [0x79], []) ∧
  decodeSymbol .idle (.byte 0xF0) = .sysexStart ∧ decodeSymbol .idle (.byte 0xF7) = .shortStart 0xF7 ∧
  decodeSymbol (.inSysex false) (.byte 0xF7) = .sysexEnd

/-- R25. -/
def Obligations.ResetMeetsTheInvariant : Prop :=
  ∀ (cfg : Params) (e : List Stimulus), State.Inv { State.reset with cfg := cfg, env := e }

/-- R102, R103, R110, R113 and R191 as one inductive invariant. -/
def Obligations.EveryStepKeepsTheInvariant : Prop :=
  ∀ s t : State, State.Inv s → step s = .next t → State.Inv t

/-- R39 and R115, from every Idle state, with unbounded `SYSEX_MAX`: it rests on the step and on every decoder rule. -/
def Obligations.StreamOfMessagesIsDeliveredInOrder : Prop :=
  ∀ (s : State) (ms : List WireMessage) (tail : List Stimulus), s.rs = .idle → s.cfg.sysexMax = none →
    (∀ m ∈ ms, m.Ok) → s.env = presents ((ms.flatMap WireMessage.bytes).map .byte) ++ tail →
    runFor (ms.flatMap WireMessage.bytes).length s =
      .next { s with
        pos := s.pos + (ms.flatMap WireMessage.bytes).length
        out := s.out ++ ms.map fun m => .msg m.decoded
        board := ms.foldl (fun b m => b.update s.cfg m.decoded) s.board
        env := tail }

/-- R115, last sentence, and R214. -/
def Obligations.IncompleteMessageWaits : Prop :=
  (∀ (s : State) (acc : List Byte) (tail : List Stimulus), s.rs = .idle → s.cfg.sysexMax = none →
    (∀ b ∈ acc, b ≠ 0xF7) → s.env = presents ((0xF0 :: acc).map .byte) ++ tail →
    runFor (acc.length + 1) s =
      .next { s with rs := .inSysex acc, pos := s.pos + (acc.length + 1), env := tail }) ∧
  (∀ (s : State) (first d0 : Byte) (tail : List Stimulus), s.rs = .idle → first ≠ 0xF0 →
    (s.env = presents [.byte first] ++ tail →
      runFor 1 s = .next { s with rs := .inShort first (cmdOf first) .two, pos := s.pos + 1, env := tail }) ∧
    (s.env = presents [.byte first, .byte d0] ++ tail →
      runFor 2 s = .next { s with rs := .inShort first (cmdOf first) (.one d0), pos := s.pos + 2, env := tail }))

/-- R112 (decision D8). -/
def Obligations.HaltedReaderNeverMoves : Prop :=
  ∀ (k : Nat) (s t : State) (c : Cause), s.rs = .halted c → .rst ∉ s.env → runFor k s = .next t →
    observed t = observed s

/-- R191 over every input, not only the empty one. The step lemma is EveryStepKeepsTheInvariant. -/
def Obligations.FatalEventIsOnceAndLast : Prop :=
  ∀ (cfg : Params) (e : List Stimulus) (k : Nat) (t : State),
    runFor k ({ State.reset with cfg := cfg, env := e } : State) = .next t →
    fatals t.out ≤ 1 ∧ ∀ c, .fatal c ∈ t.out → t.out.getLast? = some (.fatal c) ∧ t.rs = .halted c

/-- R113 (derived by the spec) and R12. -/
def Obligations.OneEventAtMostPerSymbol : Prop :=
  (∀ (s t : State) (x : Symbol) (rest : List Stimulus) (ph : Phase), s.env = .sym x :: rest → s.phase = some ph →
    step s = .next t →
    t.pos = s.pos + 1 ∧ ∃ es, t.out = s.out ++ es ∧ es.length = if emits (decodeSymbol ph x) then 1 else 0) ∧
  (∀ s t : State, (∀ x, s.env.head? = some (.sym x) → s.phase = none) → s.env.head? ≠ some .rst → step s = .next t →
    t.out = s.out ∧ t.pos = s.pos)

/-- R60 and R189: "no byte sequence whatever can make FPD fault". -/
def Obligations.NoByteMakesTheReaderFail : Prop :=
  ∀ (s : State) (bs : List Byte) (tail : List Stimulus), s.running → s.cfg.sysexMax = none →
    s.env = presents (bs.map .byte) ++ tail →
    ∃ t, runFor bs.length s = .next t ∧ t.running ∧ t.pos = s.pos + bs.length ∧ t.env = tail ∧
      ∃ es : List Event, t.out = s.out ++ es ∧ ∀ e ∈ es, e.isMsg = true

/-- R100: "total and deterministic on every non-halted state". That an empty queue and a halted reader answer a next state,
that no step raises rowNotSelected and that a refusal comes from a call alone are the model's choices (log entries 1, 2, 20
and 21). -/
def Obligations.StepNeverFaults : Prop :=
  (∀ (s : State) (f : Fault), step s ≠ .fault f) ∧
  (∀ s : State, (∀ i, s.env.head? ≠ some (.call i)) → ∃ t, step s = .next t)

/-- R9 and R4: no in-scope rule reads the companion state. Queues with `rst` and runs that end in a refused call are left
out. -/
def Obligations.ReaderIsDeterminedByItsSymbols : Prop :=
  ∀ s₁ s₂ t₁ t₂ : State, observed s₁ = observed s₂ → s₁.cfg = s₂.cfg → symbolsOf s₁.env = symbolsOf s₂.env →
    .rst ∉ s₁.env → .rst ∉ s₂.env → runFor s₁.env.length s₁ = .next t₁ → runFor s₂.env.length s₂ = .next t₂ →
    observed t₁ = observed t₂

/-- R30, R41, R180 and R197. That no call writes a pin's mode, set pin mode included, is the model's choice where the spec is
silent (DESIGN CHOICE, log entry 7: R170, N25). -/
def Obligations.CallsLeaveTheReaderAlone : Prop :=
  ∀ (i : Instr) (s t : State), exec i s = .next t →
    (isCall i = true → observed t = observed s ∧ t.cfg = s.cfg ∧ t.env = s.env ∧ t.txUp = s.txUp ∧
      t.board.captable = s.board.captable ∧ t.board.amap = s.board.amap ∧ t.board.protover = s.board.protover ∧
      t.board.fwver = s.board.fwver ∧ t.board.pinModes = s.board.pinModes ∧
      (i.stage = .codec → t.board = s.board ∧ t.tx = s.tx ∧ t.draws = s.draws)) ∧
    (isCall i = false → t.pos = s.pos ∧ t.tx = s.tx ∧ t.ret = s.ret ∧ t.cfg = s.cfg ∧ t.env = s.env ∧
      t.txUp = s.txUp ∧ t.draws = s.draws ∧ t.board.portcache = s.board.portcache ∧
      t.board.pinModes = s.board.pinModes)

/-- R174, R175 and R179: "once populated, have a fixed length" (decision D22). -/
def Obligations.TablesArePopulatedOnce : Prop :=
  ∀ (s t : State), s.env.head? ≠ some .rst → step s = .next t →
    (∀ c, s.board.captable = some c → t.board.captable = some c) ∧
    (∀ a, s.board.amap = some a → t.board.amap = some a)

/-- R64 with the decoder's rules: writing an item and receiving it gives its values back. -/
def Obligations.WrittenItemsAreReadAsMeant : Prop :=
  (∀ (s : State) (tail : List Stimulus) (i : Item) (m : DecodedMessage), s.rs = .idle → s.cfg.sysexMax = none →
    itemOk i → itemMeans i = some m → s.env = presents i.symbols ++ tail →
    runFor i.symbols.length s =
      .next { s with
        pos := s.pos + i.symbols.length
        out := s.out ++ [.msg m]
        board := s.board.update s.cfg m
        env := tail }) ∧
  (∀ b : Byte, (Item.byte b).symbols = [.byte b]) ∧ Item.err.symbols = [.err]

/-- R65; `place` is the model's (log entry 14). -/
def Obligations.PlacedInstructionRunsNext : Prop :=
  (∀ (s : State) (i : Instr), isCall i = true → step (s.place i) = exec i s) ∧
  (∀ (s : State) (acc : List Byte),
    step (s.place (sysexRow acc)) = exec (sysexRow acc) { s with rs := .inSysex acc, pos := s.pos + 1 }) ∧
  (∀ (s : State) (first d0 d1 : Byte) (i : Instr), shortRow first d0 d1 = some i →
    step (s.place i) =
      exec i { s with rs := .inShort first (cmdOf first) (.one d0), pos := s.pos + 1 }) ∧
  (∀ (s : State) (i : Instr) (ph : Phase), i.wf = true → i.phase = some ph →
    ∃ (rs : RState) (cfg : Params) (t : State),
      State.phase { s with rs := rs, cfg := cfg, pos := s.pos + 1 } = some ph ∧
      (s.phase = some ph → rs = s.rs ∧ cfg = s.cfg) ∧
      step (s.place i) = exec i { s with rs := rs, cfg := cfg, pos := s.pos + 1 } ∧
      exec i { s with rs := rs, cfg := cfg, pos := s.pos + 1 } = .next t)

/-- R11 and R18: the informative view (the codes by decisions D7 and D16). -/
def Obligations.StatusViewOfTheReader : Prop :=
  RState.st .idle = 0 ∧ (∀ acc, (RState.inSysex acc).st = 1) ∧ (∀ first cmd n, (RState.inShort first cmd n).st = 2) ∧
  (∀ c, (RState.halted c).st = 3) ∧
  Remaining.count .two = 2 ∧ (∀ d0, (Remaining.one d0).count = 1) ∧
  Cause.code .transportError = 1 ∧ Cause.code .malformedFrame = 2 ∧ Cause.code .accOverflow = 3 ∧
  ∀ s : State, (s.isHalted = true ↔ ∃ c, s.rs = .halted c) ∧ (s.phase = none ↔ s.isHalted = true)

/-- The cache writes of R152, R153 and R176; R179: no write corrupts a sibling. -/
def Obligations.CacheWritesTouchOneEntry : Prop :=
  (∀ (b : Board) (p q : Nibble) (v : Nat), (b.setAnalog p v).analog q = (if q = p then v else b.analog q) ∧
    { b.setAnalog p v with analogcache := b.analogcache } = b) ∧
  (∀ (b : Board) (p q : Nibble) (w : Byte), (b.setPort p w).port q = (if q = p then w else b.port q) ∧
    { b.setPort p w with portcache := b.portcache } = b)
end

