-- ==== Sys2Proof/Laws/State.lean ====
section
/-!
SUPPORT. One lemma per field per shared operation, so that no proof unfolds a record update.
-/

namespace Sys2Proof.Machine

variable (s : State)

@[simp] theorem State.emit_rs (e : Event) : (s.emit e).rs = s.rs := rfl
@[simp] theorem State.emit_pos (e : Event) : (s.emit e).pos = s.pos := rfl
@[simp] theorem State.emit_out (e : Event) : (s.emit e).out = s.out ++ [e] := rfl
@[simp] theorem State.emit_board (e : Event) : (s.emit e).board = s.board := rfl
@[simp] theorem State.emit_tx (e : Event) : (s.emit e).tx = s.tx := rfl
@[simp] theorem State.emit_ret (e : Event) : (s.emit e).ret = s.ret := rfl
@[simp] theorem State.emit_cfg (e : Event) : (s.emit e).cfg = s.cfg := rfl
@[simp] theorem State.emit_env (e : Event) : (s.emit e).env = s.env := rfl
@[simp] theorem State.emit_txUp (e : Event) : (s.emit e).txUp = s.txUp := rfl
@[simp] theorem State.emit_draws (e : Event) : (s.emit e).draws = s.draws := rfl

@[simp] theorem State.consume_rs : (s.consume).rs = s.rs := rfl
@[simp] theorem State.consume_pos : (s.consume).pos = s.pos + 1 := rfl
@[simp] theorem State.consume_out : (s.consume).out = s.out := rfl
@[simp] theorem State.consume_board : (s.consume).board = s.board := rfl
@[simp] theorem State.consume_tx : (s.consume).tx = s.tx := rfl
@[simp] theorem State.consume_ret : (s.consume).ret = s.ret := rfl
@[simp] theorem State.consume_cfg : (s.consume).cfg = s.cfg := rfl
@[simp] theorem State.consume_env : (s.consume).env = s.env := rfl
@[simp] theorem State.consume_txUp : (s.consume).txUp = s.txUp := rfl
@[simp] theorem State.consume_draws : (s.consume).draws = s.draws := rfl

@[simp] theorem State.deliver_rs (m : DecodedMessage) : (s.deliver m).rs = .idle := rfl
@[simp] theorem State.deliver_pos (m : DecodedMessage) : (s.deliver m).pos = s.pos := rfl
@[simp] theorem State.deliver_out (m : DecodedMessage) : (s.deliver m).out = s.out ++ [.msg m] := rfl
@[simp] theorem State.deliver_board (m : DecodedMessage) : (s.deliver m).board = s.board.update s.cfg m := rfl
@[simp] theorem State.deliver_tx (m : DecodedMessage) : (s.deliver m).tx = s.tx := rfl
@[simp] theorem State.deliver_ret (m : DecodedMessage) : (s.deliver m).ret = s.ret := rfl
@[simp] theorem State.deliver_cfg (m : DecodedMessage) : (s.deliver m).cfg = s.cfg := rfl
@[simp] theorem State.deliver_env (m : DecodedMessage) : (s.deliver m).env = s.env := rfl
@[simp] theorem State.deliver_txUp (m : DecodedMessage) : (s.deliver m).txUp = s.txUp := rfl
@[simp] theorem State.deliver_draws (m : DecodedMessage) : (s.deliver m).draws = s.draws := rfl

@[simp] theorem State.raiseFatal_rs (c : Cause) : (s.raiseFatal c).rs = .halted c := rfl
@[simp] theorem State.raiseFatal_pos (c : Cause) : (s.raiseFatal c).pos = s.pos := rfl
@[simp] theorem State.raiseFatal_out (c : Cause) : (s.raiseFatal c).out = s.out ++ [.fatal c] := rfl
@[simp] theorem State.raiseFatal_board (c : Cause) : (s.raiseFatal c).board = s.board := rfl
@[simp] theorem State.raiseFatal_tx (c : Cause) : (s.raiseFatal c).tx = s.tx := rfl
@[simp] theorem State.raiseFatal_ret (c : Cause) : (s.raiseFatal c).ret = s.ret := rfl
@[simp] theorem State.raiseFatal_cfg (c : Cause) : (s.raiseFatal c).cfg = s.cfg := rfl
@[simp] theorem State.raiseFatal_env (c : Cause) : (s.raiseFatal c).env = s.env := rfl
@[simp] theorem State.raiseFatal_txUp (c : Cause) : (s.raiseFatal c).txUp = s.txUp := rfl
@[simp] theorem State.raiseFatal_draws (c : Cause) : (s.raiseFatal c).draws = s.draws := rfl

@[simp] theorem State.returns_rs (r : Ret) : (s.returns r).rs = s.rs := rfl
@[simp] theorem State.returns_pos (r : Ret) : (s.returns r).pos = s.pos := rfl
@[simp] theorem State.returns_out (r : Ret) : (s.returns r).out = s.out := rfl
@[simp] theorem State.returns_board (r : Ret) : (s.returns r).board = s.board := rfl
@[simp] theorem State.returns_tx (r : Ret) : (s.returns r).tx = s.tx := rfl
@[simp] theorem State.returns_ret (r : Ret) : (s.returns r).ret = s.ret ++ [r] := rfl
@[simp] theorem State.returns_cfg (r : Ret) : (s.returns r).cfg = s.cfg := rfl
@[simp] theorem State.returns_env (r : Ret) : (s.returns r).env = s.env := rfl
@[simp] theorem State.returns_txUp (r : Ret) : (s.returns r).txUp = s.txUp := rfl
@[simp] theorem State.returns_draws (r : Ret) : (s.returns r).draws = s.draws := rfl

@[simp] theorem State.resetInstance_rs : (s.resetInstance).rs = .idle := rfl
@[simp] theorem State.resetInstance_pos : (s.resetInstance).pos = 0 := rfl
@[simp] theorem State.resetInstance_out : (s.resetInstance).out = [] := rfl
@[simp] theorem State.resetInstance_board : (s.resetInstance).board = Board.reset := rfl
@[simp] theorem State.resetInstance_tx : (s.resetInstance).tx = [] := rfl
@[simp] theorem State.resetInstance_ret : (s.resetInstance).ret = [] := rfl
@[simp] theorem State.resetInstance_cfg : (s.resetInstance).cfg = s.cfg := rfl
@[simp] theorem State.resetInstance_env : (s.resetInstance).env = s.env := rfl
@[simp] theorem State.resetInstance_txUp : (s.resetInstance).txUp = s.txUp := rfl
@[simp] theorem State.resetInstance_draws : (s.resetInstance).draws = s.draws := rfl

/-! Writing a frame touches the transmit record and the returned values alone. -/
@[simp] theorem State.sendFrame_rs (fr : List Byte) : (s.sendFrame fr).rs = s.rs := by
  unfold State.sendFrame; split <;> rfl
@[simp] theorem State.sendFrame_pos (fr : List Byte) : (s.sendFrame fr).pos = s.pos := by
  unfold State.sendFrame; split <;> rfl
@[simp] theorem State.sendFrame_out (fr : List Byte) : (s.sendFrame fr).out = s.out := by
  unfold State.sendFrame; split <;> rfl
@[simp] theorem State.sendFrame_board (fr : List Byte) : (s.sendFrame fr).board = s.board := by
  unfold State.sendFrame; split <;> rfl
@[simp] theorem State.sendFrame_cfg (fr : List Byte) : (s.sendFrame fr).cfg = s.cfg := by
  unfold State.sendFrame; split <;> rfl
@[simp] theorem State.sendFrame_env (fr : List Byte) : (s.sendFrame fr).env = s.env := by
  unfold State.sendFrame; split <;> rfl
@[simp] theorem State.sendFrame_txUp (fr : List Byte) : (s.sendFrame fr).txUp = s.txUp := by
  unfold State.sendFrame; split <;> rfl
@[simp] theorem State.sendFrame_draws (fr : List Byte) : (s.sendFrame fr).draws = s.draws := by
  unfold State.sendFrame; split <;> rfl

@[simp] theorem State.sendCached_rs (fr : List Byte) (b : Board) : (s.sendCached fr b).rs = s.rs := by
  unfold State.sendCached; split <;> simp
@[simp] theorem State.sendCached_pos (fr : List Byte) (b : Board) : (s.sendCached fr b).pos = s.pos := by
  unfold State.sendCached; split <;> simp
@[simp] theorem State.sendCached_out (fr : List Byte) (b : Board) : (s.sendCached fr b).out = s.out := by
  unfold State.sendCached; split <;> simp
@[simp] theorem State.sendCached_cfg (fr : List Byte) (b : Board) : (s.sendCached fr b).cfg = s.cfg := by
  unfold State.sendCached; split <;> simp
@[simp] theorem State.sendCached_env (fr : List Byte) (b : Board) : (s.sendCached fr b).env = s.env := by
  unfold State.sendCached; split <;> simp
@[simp] theorem State.sendCached_txUp (fr : List Byte) (b : Board) : (s.sendCached fr b).txUp = s.txUp := by
  unfold State.sendCached; split <;> simp

theorem State.sendFrame_up (fr : List Byte) (h : s.txUp = true) :
    s.sendFrame fr = { s with tx := s.tx ++ [fr], ret := s.ret ++ [.written] } := by
  simp [State.sendFrame, h, State.returns]

theorem State.sendFrame_down (fr : List Byte) (h : s.txUp = false) :
    s.sendFrame fr = { s with ret := s.ret ++ [.transportError] } := by
  simp [State.sendFrame, h, State.returns]

theorem State.sendCached_up (fr : List Byte) (b : Board) (h : s.txUp = true) :
    s.sendCached fr b = { s with board := b, tx := s.tx ++ [fr], ret := s.ret ++ [.written] } := by
  simp [State.sendCached, State.sendFrame, h, State.returns]

/-- A failed cached write: nothing sent, the tables old or new by the free value. -/
theorem State.sendCached_down (fr : List Byte) (b : Board) (h : s.txUp = false) :
    s.sendCached fr b =
      { s with
        board := if Config.failedWriteKeepsNew s.draws then b else s.board
        ret := s.ret ++ [.transportError]
        draws := s.draws + 1 } := by
  simp [State.sendCached, State.sendFrame, h, State.returns]

/-! ## The caches -/

variable (b : Board)

@[simp] theorem Board.analog_setAnalog_same (pin : Nibble) (v : Nat) : (b.setAnalog pin v).analog pin = v := by
  simp [Board.analog, Board.setAnalog]

theorem Board.analog_setAnalog_other {pin q : Nibble} (v : Nat) (h : q ≠ pin) :
    (b.setAnalog pin v).analog q = b.analog q := by
  have hn : pin.toNat ≠ q.toNat := fun e => h (BitVec.eq_of_toNat_eq e.symm)
  simp only [Board.analog, Board.setAnalog]
  exact Vector.getElem_set_ne _ _ hn

@[simp] theorem Board.port_setPort_same (port : Nibble) (v : Byte) : (b.setPort port v).port port = v := by
  simp [Board.port, Board.setPort]

theorem Board.port_setPort_other {port q : Nibble} (v : Byte) (h : q ≠ port) :
    (b.setPort port v).port q = b.port q := by
  have hn : port.toNat ≠ q.toNat := fun e => h (BitVec.eq_of_toNat_eq e.symm)
  simp only [Board.port, Board.setPort]
  exact Vector.getElem_set_ne _ _ hn

@[simp] theorem Board.setAnalog_captable (pin : Nibble) (v : Nat) : (b.setAnalog pin v).captable = b.captable := rfl
@[simp] theorem Board.setAnalog_amap (pin : Nibble) (v : Nat) : (b.setAnalog pin v).amap = b.amap := rfl
@[simp] theorem Board.setAnalog_portcache (pin : Nibble) (v : Nat) : (b.setAnalog pin v).portcache = b.portcache := rfl
@[simp] theorem Board.setAnalog_protover (pin : Nibble) (v : Nat) : (b.setAnalog pin v).protover = b.protover := rfl
@[simp] theorem Board.setAnalog_fwver (pin : Nibble) (v : Nat) : (b.setAnalog pin v).fwver = b.fwver := rfl
@[simp] theorem Board.setAnalog_pinModes (pin : Nibble) (v : Nat) : (b.setAnalog pin v).pinModes = b.pinModes := rfl
@[simp] theorem Board.setPort_captable (port : Nibble) (v : Byte) : (b.setPort port v).captable = b.captable := rfl
@[simp] theorem Board.setPort_amap (port : Nibble) (v : Byte) : (b.setPort port v).amap = b.amap := rfl
@[simp] theorem Board.setPort_analogcache (port : Nibble) (v : Byte) : (b.setPort port v).analogcache = b.analogcache := rfl
@[simp] theorem Board.setPort_protover (port : Nibble) (v : Byte) : (b.setPort port v).protover = b.protover := rfl
@[simp] theorem Board.setPort_fwver (port : Nibble) (v : Byte) : (b.setPort port v).fwver = b.fwver := rfl
@[simp] theorem Board.setPort_pinModes (port : Nibble) (v : Byte) : (b.setPort port v).pinModes = b.pinModes := rfl

/-- A decoded message never touches the port cache (R178). -/
@[simp] theorem Board.update_portcache (cfg : Params) (m : DecodedMessage) :
    (b.update cfg m).portcache = b.portcache := by
  cases m <;> simp only [Board.update] <;> (try split) <;> rfl

/-- A decoded message never touches the pin modes (R178). -/
@[simp] theorem Board.update_pinModes (cfg : Params) (m : DecodedMessage) :
    (b.update cfg m).pinModes = b.pinModes := by
  cases m <;> simp only [Board.update] <;> (try split) <;> rfl

end Sys2Proof.Machine
end

