-- ==== Sys2Proof/Laws/Operands.lean ====
section
/-!
SUPPORT. The small lemmas of the codec and of the wire forms.
-/

namespace Sys2Proof

@[simp] theorem hiNibble_ofNibbles (h l : Nibble) : hiNibble (Byte.ofNibbles h l) = h := by
  revert h l; decide

@[simp] theorem loNibble_ofNibbles (h l : Nibble) : loNibble (Byte.ofNibbles h l) = l := by
  revert h l; decide

theorem ofNibbles_hi_lo (b : Byte) : Byte.ofNibbles (hiNibble b) (loNibble b) = b := by
  revert b; decide

@[simp] theorem bodyOk_nil : bodyOk [] = true := rfl

@[simp] theorem bodyOk_cons (b : Byte) (p : List Byte) :
    bodyOk (b :: p) = (decide (b ≠ Wire.sysexEnd) && bodyOk p) := rfl

theorem bodyOk_append (p q : List Byte) : bodyOk (p ++ q) = (bodyOk p && bodyOk q) := by
  simp [bodyOk]

/-- The scan for the end marker stops at the first one (R53). -/
theorem splitAtEnd_append {acc : List Byte} (h : bodyOk acc = true) (rest : List Byte) :
    splitAtEnd (acc ++ Wire.sysexEnd :: rest) = some (acc, rest) := by
  induction acc with
  | nil => simp [splitAtEnd]
  | cons b acc ih =>
    simp only [bodyOk_cons, Bool.and_eq_true, decide_eq_true_eq] at h
    simp [splitAtEnd, h.1, ih h.2]

/-- What a successful scan says of its input. -/
theorem splitAtEnd_eq_some {bs acc rest : List Byte} (h : splitAtEnd bs = some (acc, rest)) :
    bs = acc ++ Wire.sysexEnd :: rest ∧ bodyOk acc = true := by
  induction bs generalizing acc with
  | nil => simp [splitAtEnd] at h
  | cons b bs ih =>
    simp only [splitAtEnd] at h
    split at h
    · next hb => simp only [Option.some.injEq, Prod.mk.injEq] at h; obtain ⟨rfl, rfl⟩ := h; simp [hb]
    · next hb =>
      split at h
      · next a t ha =>
        simp only [Option.some.injEq, Prod.mk.injEq] at h
        obtain ⟨rfl, rfl⟩ := h
        obtain ⟨h1, h2⟩ := ih ha
        exact ⟨by simp [h1], by simp [hb, h2]⟩
      · cases h

namespace Machine

@[simp] theorem packByteStream_length (bs : List Byte) : (packByteStream bs).length = 2 * bs.length := by
  induction bs with
  | nil => rfl
  | cons b bs ih => simp [packByteStream, ih]; omega

theorem unpackPairs_length (ws : List Byte) : (unpackPairs ws).length = ws.length / 2 := by
  induction ws using unpackPairs.induct with
  | case1 lo hi rest ih => simp [unpackPairs, ih]; omega
  | case2 ws h =>
    match ws, h with
    | [], _ => rfl
    | [_], _ => simp [unpackPairs]
    | lo :: hi :: rest, h => exact absurd rfl (h lo hi rest)

@[simp] theorem fieldsBytes_nil : fieldsBytes [] = [] := rfl

@[simp] theorem fieldsBytes_cons (f : TxField) (fs : List TxField) :
    fieldsBytes (f :: fs) = fieldBytes f ++ fieldsBytes fs := rfl

@[simp] theorem decodeLe7_nil : decodeLe7 [] = 0 := rfl

end Machine

end Sys2Proof
end

