-- ==== Sys2Proof/Laws/Codec.lean ====
section
/-!
SUPPORT. The codec as arithmetic, and the capability scan against the lists it reads (R123).
-/

namespace Sys2Proof.Machine

theorem decode14_toNat (lsb msb : Byte) : (decode14 lsb msb).toNat = lsb.toNat ||| (msb.toNat <<< 7) := by
  have := lsb.isLt
  have := msb.isLt
  simp only [decode14, BitVec.toNat_or, BitVec.toNat_setWidth, BitVec.toNat_shiftLeft, Nat.shiftLeft_eq]
  rw [Nat.mod_eq_of_lt (a := lsb.toNat) (by omega), Nat.mod_eq_of_lt (a := msb.toNat) (by omega),
    Nat.mod_eq_of_lt (by omega)]

/-- In protocol the or is a sum. -/
theorem or_shift_seven {a : Nat} (b : Nat) (h : a < 128) : a ||| (b <<< 7) = a + 128 * b := by
  rw [Nat.or_comm, ← Nat.shiftLeft_add_eq_or_of_lt (i := 7) h, Nat.shiftLeft_eq]
  omega

theorem encode7pair_fst_toNat (v : Nat) : (encode7pair v).1.toNat = v % 128 := by
  simp only [encode7pair, BitVec.toNat_ofNat, show v &&& 127 = v % 128 from Nat.and_two_pow_sub_one_eq_mod v 7]
  omega

theorem encode7pair_snd_toNat (v : Nat) : (encode7pair v).2.toNat = v / 128 % 128 := by
  simp only [encode7pair, BitVec.toNat_ofNat, Nat.shiftRight_eq_div_pow,
    show v / 2 ^ 7 &&& 127 = v / 2 ^ 7 % 128 from Nat.and_two_pow_sub_one_eq_mod _ 7]
  omega

/-- The split of a value has bit 7 clear in both bytes (R156). -/
theorem pairBytes_lt (v : Nat) : ∀ b ∈ pairBytes v, b.toNat < 128 := by
  intro b hb
  simp only [pairBytes, List.mem_cons, List.not_mem_nil, or_false] at hb
  rcases hb with rfl | rfl
  · rw [encode7pair_fst_toNat]
    omega
  · rw [encode7pair_snd_toNat]
    omega

/-- Entries whose mode is no terminator are collected in order. -/
theorem parseCapsFrom_entries {l : List (Byte × Byte)} (hl : ∀ e ∈ l, e.1 ≠ Wire.capEnd) (rest : List Byte)
    (cur : List (Byte × Byte)) (pins : List (List (Byte × Byte))) :
    parseCapsFrom ((l.flatMap fun e => [e.1, e.2]) ++ rest) cur pins = parseCapsFrom rest (cur ++ l) pins := by
  induction l generalizing cur with
  | nil => simp
  | cons e l ih =>
    have he : ¬ e.1 = Wire.capEnd := hl e (by simp)
    simp only [List.flatMap_cons, List.cons_append, List.nil_append, parseCapsFrom, he, if_false]
    rw [ih (fun x hx => hl x (by simp [hx]))]
    simp

/-- A terminator closes the pin being read. -/
theorem parseCapsFrom_end (rest : List Byte) (cur : List (Byte × Byte)) (pins : List (List (Byte × Byte))) :
    parseCapsFrom (Wire.capEnd :: rest) cur pins = parseCapsFrom rest [] (pins ++ [cur]) := by
  cases rest <;> simp [parseCapsFrom]

/-- A payload written from lists is read back as those lists. -/
theorem parseCapsFrom_capsBytes {ps : List (List (Byte × Byte))} (h : ∀ l ∈ ps, ∀ e ∈ l, e.1 ≠ Wire.capEnd)
    (pins : List (List (Byte × Byte))) : parseCapsFrom (capsBytes ps) [] pins = some (pins ++ ps) := by
  induction ps generalizing pins with
  | nil => simp [capsBytes, parseCapsFrom]
  | cons l ps ih =>
    have e : capsBytes (l :: ps) = (l.flatMap fun e => [e.1, e.2]) ++ (Wire.capEnd :: capsBytes ps) := by
      simp [capsBytes]
    rw [e, parseCapsFrom_entries (h l (by simp)), parseCapsFrom_end, ih (fun x hx => h x (by simp [hx]))]
    simp

/-- A successful scan read lists that the payload is written from. -/
theorem parseCapsFrom_eq_some (p : List Byte) (cur : List (Byte × Byte)) (pins : List (List (Byte × Byte))) :
    ∀ out, parseCapsFrom p cur pins = some out → (∀ e ∈ cur, e.1 ≠ Wire.capEnd) →
      ∃ ps, (∀ l ∈ ps, ∀ e ∈ l, e.1 ≠ Wire.capEnd) ∧ out = pins ++ ps ∧
        (cur.flatMap fun e => [e.1, e.2]) ++ p = capsBytes ps := by
  induction p, cur, pins using parseCapsFrom.induct with
  | case1 pins =>
    intro out h hc
    simp [parseCapsFrom] at h
    exact ⟨[], by simp, by simp [h], by simp [capsBytes]⟩
  | case2 cur pins hcur =>
    intro out h hc
    simp [parseCapsFrom, hcur] at h
  | case3 cur pins =>
    intro out h hc
    simp [parseCapsFrom] at h
    exact ⟨[cur], by simpa using hc, by simp [h], by simp [capsBytes]⟩
  | case4 md cur pins hm =>
    intro out h hc
    simp [parseCapsFrom, hm] at h
  | case5 r rest cur pins ih =>
    intro out h hc
    rw [parseCapsFrom_end] at h
    obtain ⟨ps, h1, h2, h3⟩ := ih out h (by simp)
    refine ⟨cur :: ps, ?_, by simp [h2], ?_⟩
    · intro l hl
      rcases List.mem_cons.1 hl with rfl | hl
      · exact hc
      · exact h1 l hl
    · simp [capsBytes] at h3 ⊢
      rw [h3]
  | case6 md r rest cur pins hm ih =>
    intro out h hc
    simp only [parseCapsFrom, hm, if_false] at h
    obtain ⟨ps, h1, h2, h3⟩ := ih out h (by
      intro e he
      rcases List.mem_append.1 he with he | he
      · exact hc e he
      · simp at he
        subst he
        exact hm)
    exact ⟨ps, h1, h2, by rw [← h3]; simp⟩

end Sys2Proof.Machine
end

