-- ==== Sys2Proof/Laws/Ops.lean ====
section
/-!
SUPPORT. One lemma per shared operation that says everything it can do, and the one lemma that says what exec can do.
-/

namespace Sys2Proof.Machine

theorem completeSysex_eq {acc : List Byte} {s : State} (m : DecodedMessage) (h : s.rs = .inSysex acc) :
    completeSysex acc m s = .next (s.deliver m) := by
  simp [completeSysex, h]

theorem completeShort_eq {first d0 : Byte} {s : State} (m : DecodedMessage)
    (h : s.rs = .inShort first (cmdOf first) (.one d0)) : completeShort first d0 m s = .next (s.deliver m) := by
  simp [completeShort, h]

theorem completeSysex_next {acc : List Byte} {m : DecodedMessage} {s t : State}
    (h : completeSysex acc m s = .next t) : s.rs = .inSysex acc ∧ t = s.deliver m := by
  unfold completeSysex at h
  split at h
  · next hr => cases h; exact ⟨hr, rfl⟩
  · cases h

theorem completeShort_next {first d0 : Byte} {m : DecodedMessage} {s t : State}
    (h : completeShort first d0 m s = .next t) :
    s.rs = .inShort first (cmdOf first) (.one d0) ∧ t = s.deliver m := by
  unfold completeShort at h
  split at h
  · next hr => cases h; exact ⟨hr, rfl⟩
  · cases h

/-- What an instruction can do to the state: move the reader inside a message, deliver a message, raise a fatal
condition, or (a call) touch the caches and the transmit side alone. -/
inductive Effect (i : Instr) (s : State) : State → Prop where
  | startSysex (hc : isCall i = false) (h : s.rs = .idle) : Effect i s { s with rs := .inSysex [] }
  | startShort (b : Byte) (hc : isCall i = false) (h : s.rs = .idle) (hb : b ≠ Wire.sysexStart) :
      Effect i s { s with rs := .inShort b (cmdOf b) .two }
  | append (acc : List Byte) (b : Byte) (hc : isCall i = false) (h : s.rs = .inSysex acc) (hb : b ≠ Wire.sysexEnd)
      (hf : full s.cfg acc = false) : Effect i s { s with rs := .inSysex (acc ++ [b]) }
  | store (first cmd b : Byte) (hc : isCall i = false) (h : s.rs = .inShort first cmd .two) :
      Effect i s { s with rs := .inShort first cmd (.one b) }
  | deliver (m : DecodedMessage) (hc : isCall i = false) (h : s.rs.st = 1 ∨ s.rs.st = 2) : Effect i s (s.deliver m)
  | fatal (c : Cause) (hc : isCall i = false) (h : s.rs.st ≠ 3) : Effect i s (s.raiseFatal c)
  | call (b : Board) (tx : List (List Byte)) (ret : List Ret) (d : Nat) (h : isCall i = true)
      (hb : b.captable = s.board.captable ∧ b.amap = s.board.amap ∧ b.protover = s.board.protover ∧
        b.fwver = s.board.fwver ∧ b.pinModes = s.board.pinModes) :
      Effect i s { s with board := b, tx := tx, ret := ret, draws := d }

theorem Effect.ofSysex {i : Instr} {acc : List Byte} {m : DecodedMessage} {s t : State} (hc : isCall i = false)
    (h : completeSysex acc m s = .next t) : Effect i s t := by
  obtain ⟨hr, rfl⟩ := completeSysex_next h
  exact .deliver m hc (.inl (by rw [hr]; rfl))

theorem Effect.ofShort {i : Instr} {first d0 : Byte} {m : DecodedMessage} {s t : State} (hc : isCall i = false)
    (h : completeShort first d0 m s = .next t) : Effect i s t := by
  obtain ⟨hr, rfl⟩ := completeShort_next h
  exact .deliver m hc (.inr (by rw [hr]; rfl))

theorem Effect.ofReturns {i : Instr} {r : Ret} {s t : State} (hc : isCall i = true)
    (h : (Host.Outcome.next (s.returns r) : Host.Outcome State Fault Refusal) = .next t) : Effect i s t := by
  cases h
  exact .call s.board s.tx _ s.draws hc ⟨rfl, rfl, rfl, rfl, rfl⟩

theorem Effect.ofSend {i : Instr} {fr : List Byte} {s t : State} (hc : isCall i = true)
    (h : (Host.Outcome.next (s.sendFrame fr) : Host.Outcome State Fault Refusal) = .next t) : Effect i s t := by
  cases h
  cases hu : s.txUp
  · rw [State.sendFrame_down _ _ hu]
    have := Effect.call (i := i) (s := s) s.board s.tx (s.ret ++ [.transportError]) s.draws hc ⟨rfl, rfl, rfl, rfl, rfl⟩
    exact this
  · rw [State.sendFrame_up _ _ hu]
    have := Effect.call (i := i) (s := s) s.board (s.tx ++ [fr]) (s.ret ++ [.written]) s.draws hc
      ⟨rfl, rfl, rfl, rfl, rfl⟩
    exact this

theorem Effect.ofCached {i : Instr} {fr : List Byte} {b : Board} {s t : State} (hc : isCall i = true)
    (hb : b.captable = s.board.captable ∧ b.amap = s.board.amap ∧ b.protover = s.board.protover ∧
        b.fwver = s.board.fwver ∧ b.pinModes = s.board.pinModes)
    (h : (Host.Outcome.next (s.sendCached fr b) : Host.Outcome State Fault Refusal) = .next t) : Effect i s t := by
  cases h
  cases hu : s.txUp
  · rw [State.sendCached_down _ _ _ hu]
    cases Config.failedWriteKeepsNew s.draws
    · have := Effect.call (i := i) (s := s) s.board s.tx (s.ret ++ [.transportError]) (s.draws + 1) hc
        ⟨rfl, rfl, rfl, rfl, rfl⟩
      exact this
    · have := Effect.call (i := i) (s := s) b s.tx (s.ret ++ [.transportError]) (s.draws + 1) hc hb
      exact this
  · rw [State.sendCached_up _ _ _ hu]
    have := Effect.call (i := i) (s := s) b (s.tx ++ [fr]) (s.ret ++ [.written]) s.draws hc hb
    exact this

/-- A call's next state touches the caches and the transmit side alone. -/
theorem exec_call_effect {i : Instr} {s t : State} (hc : isCall i = true) (h : exec i s = .next t) : Effect i s t := by
  cases i
  case decode14 => exact .ofReturns hc h
  case encode7pair => exact .ofReturns hc h
  case packByteStream => exact .ofReturns hc h
  case unpackByteStream => exact .ofReturns hc h
  case decodeLe7 => exact .ofReturns hc h
  case portOfBitOf => exact .ofReturns hc h
  case txSetPinMode => exact .ofSend hc h
  case txWriteDigital =>
    simp only [exec, execTxWriteDigital] at h
    split at h
    · refine .ofCached hc ?_ h
      exact ⟨rfl, rfl, rfl, rfl, rfl⟩
    · cases h
  case txWriteAnalog =>
    simp only [exec, execTxWriteAnalog] at h
    split at h
    · refine .ofCached hc ?_ h
      exact ⟨rfl, rfl, rfl, rfl, rfl⟩
    · cases h
  case txReportAnalog =>
    simp only [exec, execTxReportAnalog] at h
    split at h
    · exact .ofSend hc h
    · cases h
  case txReportDigital =>
    simp only [exec, execTxReportDigital] at h
    split at h
    · exact .ofSend hc h
    · cases h
  case txCapsQuery => exact .ofSend hc h
  case txAmapQuery => exact .ofSend hc h
  case txI2cRequest => exact .ofSend hc h
  case txI2cConfig => exact .ofSend hc h
  case txSamplingInterval => exact .ofSend hc h
  case txPinStateQuery => exact .ofSend hc h
  all_goals exact absurd hc (by simp [isCall, Instr.stage])

/-- What exec can do: every next state is one of the effects. -/
theorem exec_effect {i : Instr} {s t : State} (h : exec i s = .next t) : Effect i s t := by
  by_cases hc : isCall i = true
  · exact exec_call_effect hc h
  replace hc := Bool.eq_false_iff.mpr hc
  cases i
  case sysexStart =>
    simp only [exec, execSysexStart] at h
    split at h <;> cases h
    next hr => exact .startSysex hc hr
  case shortStart =>
    simp only [exec, execShortStart] at h
    split at h
    · next hr =>
      split at h <;> cases h
      next hb => exact .startShort _ hc hr hb
    · cases h
  case sysexEnd =>
    simp only [exec, execSysexEnd] at h
    split at h <;> cases h
    next hr => exact .deliver _ hc (.inl (by rw [hr]; rfl))
  case sysexData =>
    simp only [exec, execSysexData] at h
    split at h
    · next hr =>
      split at h <;> cases h
      next hb => exact .append _ _ hc hr (fun e => hb (.inl e)) (by simpa using fun e => hb (.inr e))
    · cases h
  case sysexOverflow =>
    simp only [exec, execSysexOverflow] at h
    split at h
    · next hr =>
      split at h <;> cases h
      exact .fatal _ hc (by rw [hr]; simp [RState.st])
    · cases h
  case shortData0 =>
    simp only [exec, execShortData0] at h
    split at h <;> cases h
    next hr => exact .store _ _ _ hc hr
  case shortData1 =>
    simp only [exec, execShortData1] at h
    split at h <;> cases h
    next hr => exact .deliver _ hc (.inr (by rw [hr]; rfl))
  case errIdle =>
    simp only [exec, execErrIdle] at h
    split at h <;> cases h
    next hr => exact .fatal _ hc (by rw [hr]; simp [RState.st])
  case errInSysex =>
    simp only [exec, execErrInSysex] at h
    split at h <;> cases h
    next hr => exact .fatal _ hc (by rw [hr]; simp [RState.st])
  case errInShort =>
    simp only [exec, execErrInShort] at h
    split at h <;> cases h
    next hr => exact .fatal _ hc (by rw [hr]; simp [RState.st])
  case short00 => exact .ofShort hc h
  case short10 => exact .ofShort hc h
  case short20 => exact .ofShort hc h
  case short30 => exact .ofShort hc h
  case short40 => exact .ofShort hc h
  case short50 => exact .ofShort hc h
  case short60 => exact .ofShort hc h
  case short70 => exact .ofShort hc h
  case short80 => exact .ofShort hc h
  case digital => exact .ofShort hc h
  case shortA0 => exact .ofShort hc h
  case shortB0 => exact .ofShort hc h
  case reportAnalog => exact .ofShort hc h
  case reportDigital => exact .ofShort hc h
  case analog => exact .ofShort hc h
  case shortF1 => exact .ofShort hc h
  case shortF2 => exact .ofShort hc h
  case shortF3 => exact .ofShort hc h
  case pinMode => exact .ofShort hc h
  case shortF5 => exact .ofShort hc h
  case shortF6 => exact .ofShort hc h
  case shortF7 => exact .ofShort hc h
  case shortF8 => exact .ofShort hc h
  case version => exact .ofShort hc h
  case shortFA => exact .ofShort hc h
  case shortFB => exact .ofShort hc h
  case shortFC => exact .ofShort hc h
  case shortFD => exact .ofShort hc h
  case shortFE => exact .ofShort hc h
  case shortFF => exact .ofShort hc h
  case firmware => exact .ofSysex hc h
  case caps => exact .ofSysex hc h
  case amap => exact .ofSysex hc h
  case pinState => exact .ofSysex hc h
  case i2cReply => exact .ofSysex hc h
  case sysexAmapQuery => exact .ofSysex hc h
  case sysexCapsQuery => exact .ofSysex hc h
  case sysexPinStateQuery => exact .ofSysex hc h
  case sysexI2cRequest => exact .ofSysex hc h
  case sysexI2cConfig => exact .ofSysex hc h
  case sysexSamplingInterval => exact .ofSysex hc h
  case sysexOther =>
    simp only [exec, execSysexOther] at h
    split at h
    · cases h
    · exact .ofSysex hc h
  case sysexEmpty => exact .ofSysex hc h
  all_goals exact absurd hc (by simp [isCall, Instr.stage])

end Sys2Proof.Machine
end

