-- ==== Sys2Proof/Laws/PerInstr.lean ====
section
/-!
SUPPORT. The statements made per instruction: the table row that a well-formed instruction's byte selects is the
instruction's own row (spec/30_encoding.md R65).
-/

namespace Sys2Proof.Laws.Selects

/-- The row `opcodeRows` selects for the instruction's byte, in its stage and phase, bears its mnemonic. -/
def Statement (i : Instr) : Prop :=
  i.wf = true → ∀ ph b, i.opcode = some (ph, b) → selectRow i.stage ph b = some i.mnemonic

/-- A row told by no byte says nothing here. -/
theorem of_no_opcode {i : Instr} (h : i.opcode = none) : Statement i :=
  fun _ _ _ h' => by rw [h] at h'; cases h'

/-- A row whose byte selects it needs no more. -/
theorem of_select {i : Instr} {ph : Option Phase} {b : Byte} (ho : i.opcode = some (ph, b))
    (h : i.wf = true → selectRow i.stage ph b = some i.mnemonic) : Statement i :=
  fun hw _ _ h' => by rw [ho] at h'; cases h'; exact h hw

theorem select_idle : ∀ b : Byte, b ≠ Wire.sysexStart → selectRow .idleByte none b = some "SHORT_START" := by decide

theorem select_data : ∀ b : Byte, b ≠ Wire.sysexEnd →
    selectRow .insysexByte (some (.inSysex false)) b = some "SYSEX_DATA" := by decide

theorem select_overflow : ∀ b : Byte, b ≠ Wire.sysexEnd →
    selectRow .insysexByte (some (.inSysex true)) b = some "SYSEX_OVERFLOW" := by decide

theorem select_data0 : ∀ b : Byte, selectRow .inshortByte (some (.inShort false)) b = some "SHORT_DATA0" := by decide

theorem select_data1 : ∀ b : Byte, selectRow .inshortByte (some (.inShort true)) b = some "SHORT_DATA1" := by decide

theorem select_other : ∀ b : Byte, b ∉ Wire.namedSubtypes →
    selectRow .sysexSubtype none b = some "SYSEX_OTHER" := by decide

theorem sysexStart : Statement .sysexStart := of_select rfl fun _ => by decide

theorem shortStart (b : Byte) : Statement (.shortStart b) :=
  of_select rfl fun hw => select_idle b (by simpa [Instr.wf] using hw)

theorem sysexEnd : Statement .sysexEnd := of_select rfl fun _ => by decide

theorem sysexData (b : Byte) : Statement (.sysexData b) :=
  of_select rfl fun hw => select_data b (by simpa [Instr.wf] using hw)

theorem sysexOverflow (b : Byte) : Statement (.sysexOverflow b) :=
  of_select rfl fun hw => select_overflow b (by simpa [Instr.wf] using hw)

theorem shortData0 (b : Byte) : Statement (.shortData0 b) := of_select rfl fun _ => select_data0 b

theorem shortData1 (b : Byte) : Statement (.shortData1 b) := of_select rfl fun _ => select_data1 b

theorem errIdle : Statement .errIdle := of_no_opcode rfl

theorem errInSysex : Statement .errInSysex := of_no_opcode rfl

theorem errInShort : Statement .errInShort := of_no_opcode rfl

theorem short00 (chan : Nibble) (d0 d1 : Byte) : Statement (.short00 chan d0 d1) :=
  of_select rfl fun _ => by
    have h : ∀ c : Nibble, selectRow .shortFirst none (Byte.ofNibbles 0x0 c) = some "SHORT_00" := by decide
    exact h chan

theorem short10 (chan : Nibble) (d0 d1 : Byte) : Statement (.short10 chan d0 d1) :=
  of_select rfl fun _ => by
    have h : ∀ c : Nibble, selectRow .shortFirst none (Byte.ofNibbles 0x1 c) = some "SHORT_10" := by decide
    exact h chan

theorem short20 (chan : Nibble) (d0 d1 : Byte) : Statement (.short20 chan d0 d1) :=
  of_select rfl fun _ => by
    have h : ∀ c : Nibble, selectRow .shortFirst none (Byte.ofNibbles 0x2 c) = some "SHORT_20" := by decide
    exact h chan

theorem short30 (chan : Nibble) (d0 d1 : Byte) : Statement (.short30 chan d0 d1) :=
  of_select rfl fun _ => by
    have h : ∀ c : Nibble, selectRow .shortFirst none (Byte.ofNibbles 0x3 c) = some "SHORT_30" := by decide
    exact h chan

theorem short40 (chan : Nibble) (d0 d1 : Byte) : Statement (.short40 chan d0 d1) :=
  of_select rfl fun _ => by
    have h : ∀ c : Nibble, selectRow .shortFirst none (Byte.ofNibbles 0x4 c) = some "SHORT_40" := by decide
    exact h chan

theorem short50 (chan : Nibble) (d0 d1 : Byte) : Statement (.short50 chan d0 d1) :=
  of_select rfl fun _ => by
    have h : ∀ c : Nibble, selectRow .shortFirst none (Byte.ofNibbles 0x5 c) = some "SHORT_50" := by decide
    exact h chan

theorem short60 (chan : Nibble) (d0 d1 : Byte) : Statement (.short60 chan d0 d1) :=
  of_select rfl fun _ => by
    have h : ∀ c : Nibble, selectRow .shortFirst none (Byte.ofNibbles 0x6 c) = some "SHORT_60" := by decide
    exact h chan

theorem short70 (chan : Nibble) (d0 d1 : Byte) : Statement (.short70 chan d0 d1) :=
  of_select rfl fun _ => by
    have h : ∀ c : Nibble, selectRow .shortFirst none (Byte.ofNibbles 0x7 c) = some "SHORT_70" := by decide
    exact h chan

theorem short80 (chan : Nibble) (d0 d1 : Byte) : Statement (.short80 chan d0 d1) :=
  of_select rfl fun _ => by
    have h : ∀ c : Nibble, selectRow .shortFirst none (Byte.ofNibbles 0x8 c) = some "SHORT_80" := by decide
    exact h chan

theorem digital (chan : Nibble) (d0 d1 : Byte) : Statement (.digital chan d0 d1) :=
  of_select rfl fun _ => by
    have h : ∀ c : Nibble, selectRow .shortFirst none (Byte.ofNibbles 0x9 c) = some "DIGITAL" := by decide
    exact h chan

theorem shortA0 (chan : Nibble) (d0 d1 : Byte) : Statement (.shortA0 chan d0 d1) :=
  of_select rfl fun _ => by
    have h : ∀ c : Nibble, selectRow .shortFirst none (Byte.ofNibbles 0xA c) = some "SHORT_A0" := by decide
    exact h chan

theorem shortB0 (chan : Nibble) (d0 d1 : Byte) : Statement (.shortB0 chan d0 d1) :=
  of_select rfl fun _ => by
    have h : ∀ c : Nibble, selectRow .shortFirst none (Byte.ofNibbles 0xB c) = some "SHORT_B0" := by decide
    exact h chan

theorem reportAnalog (chan : Nibble) (d0 d1 : Byte) : Statement (.reportAnalog chan d0 d1) :=
  of_select rfl fun _ => by
    have h : ∀ c : Nibble, selectRow .shortFirst none (Byte.ofNibbles 0xC c) = some "REPORT_ANALOG" := by decide
    exact h chan

theorem reportDigital (chan : Nibble) (d0 d1 : Byte) : Statement (.reportDigital chan d0 d1) :=
  of_select rfl fun _ => by
    have h : ∀ c : Nibble, selectRow .shortFirst none (Byte.ofNibbles 0xD c) = some "REPORT_DIGITAL" := by decide
    exact h chan

theorem analog (chan : Nibble) (d0 d1 : Byte) : Statement (.analog chan d0 d1) :=
  of_select rfl fun _ => by
    have h : ∀ c : Nibble, selectRow .shortFirst none (Byte.ofNibbles 0xE c) = some "ANALOG" := by decide
    exact h chan

theorem shortF1 (d0 d1 : Byte) : Statement (.shortF1 d0 d1) :=
  of_select rfl fun _ => show selectRow .shortFirst none 0xF1 = some "SHORT_F1" by decide

theorem shortF2 (d0 d1 : Byte) : Statement (.shortF2 d0 d1) :=
  of_select rfl fun _ => show selectRow .shortFirst none 0xF2 = some "SHORT_F2" by decide

theorem shortF3 (d0 d1 : Byte) : Statement (.shortF3 d0 d1) :=
  of_select rfl fun _ => show selectRow .shortFirst none 0xF3 = some "SHORT_F3" by decide

theorem pinMode (d0 d1 : Byte) : Statement (.pinMode d0 d1) :=
  of_select rfl fun _ => show selectRow .shortFirst none 0xF4 = some "PIN_MODE" by decide

theorem shortF5 (d0 d1 : Byte) : Statement (.shortF5 d0 d1) :=
  of_select rfl fun _ => show selectRow .shortFirst none 0xF5 = some "SHORT_F5" by decide

theorem shortF6 (d0 d1 : Byte) : Statement (.shortF6 d0 d1) :=
  of_select rfl fun _ => show selectRow .shortFirst none 0xF6 = some "SHORT_F6" by decide

theorem shortF7 (d0 d1 : Byte) : Statement (.shortF7 d0 d1) :=
  of_select rfl fun _ => show selectRow .shortFirst none 0xF7 = some "SHORT_F7" by decide

theorem shortF8 (d0 d1 : Byte) : Statement (.shortF8 d0 d1) :=
  of_select rfl fun _ => show selectRow .shortFirst none 0xF8 = some "SHORT_F8" by decide

theorem version (d0 d1 : Byte) : Statement (.version d0 d1) :=
  of_select rfl fun _ => show selectRow .shortFirst none 0xF9 = some "VERSION" by decide

theorem shortFA (d0 d1 : Byte) : Statement (.shortFA d0 d1) :=
  of_select rfl fun _ => show selectRow .shortFirst none 0xFA = some "SHORT_FA" by decide

theorem shortFB (d0 d1 : Byte) : Statement (.shortFB d0 d1) :=
  of_select rfl fun _ => show selectRow .shortFirst none 0xFB = some "SHORT_FB" by decide

theorem shortFC (d0 d1 : Byte) : Statement (.shortFC d0 d1) :=
  of_select rfl fun _ => show selectRow .shortFirst none 0xFC = some "SHORT_FC" by decide

theorem shortFD (d0 d1 : Byte) : Statement (.shortFD d0 d1) :=
  of_select rfl fun _ => show selectRow .shortFirst none 0xFD = some "SHORT_FD" by decide

theorem shortFE (d0 d1 : Byte) : Statement (.shortFE d0 d1) :=
  of_select rfl fun _ => show selectRow .shortFirst none 0xFE = some "SHORT_FE" by decide

theorem shortFF (d0 d1 : Byte) : Statement (.shortFF d0 d1) :=
  of_select rfl fun _ => show selectRow .shortFirst none 0xFF = some "SHORT_FF" by decide

theorem firmware (p : List Byte) : Statement (.firmware p) :=
  of_select rfl fun _ => show selectRow .sysexSubtype none Wire.subFirmware = some "FIRMWARE" by decide

theorem caps (p : List Byte) : Statement (.caps p) :=
  of_select rfl fun _ => show selectRow .sysexSubtype none Wire.subCaps = some "CAPS" by decide

theorem amap (p : List Byte) : Statement (.amap p) :=
  of_select rfl fun _ => show selectRow .sysexSubtype none Wire.subAmap = some "AMAP" by decide

theorem pinState (p : List Byte) : Statement (.pinState p) :=
  of_select rfl fun _ => show selectRow .sysexSubtype none Wire.subPinState = some "PINSTATE" by decide

theorem i2cReply (p : List Byte) : Statement (.i2cReply p) :=
  of_select rfl fun _ => show selectRow .sysexSubtype none Wire.subI2cReply = some "I2CREPLY" by decide

theorem sysexAmapQuery (p : List Byte) : Statement (.sysexAmapQuery p) :=
  of_select rfl fun _ => show selectRow .sysexSubtype none Wire.subAmapQuery = some "SYSEX_AMAP_QUERY" by decide

theorem sysexCapsQuery (p : List Byte) : Statement (.sysexCapsQuery p) :=
  of_select rfl fun _ => show selectRow .sysexSubtype none Wire.subCapsQuery = some "SYSEX_CAPS_QUERY" by decide

theorem sysexPinStateQuery (p : List Byte) : Statement (.sysexPinStateQuery p) :=
  of_select rfl fun _ => show selectRow .sysexSubtype none Wire.subPinStateQuery = some "SYSEX_PINSTATE_QUERY" by decide

theorem sysexI2cRequest (p : List Byte) : Statement (.sysexI2cRequest p) :=
  of_select rfl fun _ => show selectRow .sysexSubtype none Wire.subI2cRequest = some "SYSEX_I2C_REQUEST" by decide

theorem sysexI2cConfig (p : List Byte) : Statement (.sysexI2cConfig p) :=
  of_select rfl fun _ => show selectRow .sysexSubtype none Wire.subI2cConfig = some "SYSEX_I2C_CONFIG" by decide

theorem sysexSamplingInterval (p : List Byte) : Statement (.sysexSamplingInterval p) :=
  of_select rfl fun _ => show selectRow .sysexSubtype none Wire.subSamplingInterval = some "SYSEX_SAMPLING_INTERVAL" by decide

theorem sysexOther (sub : Byte) (p : List Byte) : Statement (.sysexOther sub p) :=
  of_select rfl fun hw => select_other sub (by
    simp only [Instr.wf, Bool.and_eq_true, decide_eq_true_eq] at hw
    exact hw.1.1)

theorem sysexEmpty : Statement .sysexEmpty := of_no_opcode rfl

theorem decode14 (lsb msb : Byte) : Statement (.decode14 lsb msb) := of_no_opcode rfl

theorem encode7pair (value : Nat) : Statement (.encode7pair value) := of_no_opcode rfl

theorem packByteStream (bytes : List Byte) : Statement (.packByteStream bytes) := of_no_opcode rfl

theorem unpackByteStream (wire : List Byte) : Statement (.unpackByteStream wire) := of_no_opcode rfl

theorem decodeLe7 (bytes : List Byte) : Statement (.decodeLe7 bytes) := of_no_opcode rfl

theorem portOfBitOf (pin : Byte) : Statement (.portOfBitOf pin) := of_no_opcode rfl

theorem txSetPinMode (pin mode : Nat) : Statement (.txSetPinMode pin mode) := of_no_opcode rfl

theorem txWriteDigital (pin level : Byte) : Statement (.txWriteDigital pin level) := of_no_opcode rfl

theorem txWriteAnalog (pin : Byte) (value : Nat) : Statement (.txWriteAnalog pin value) := of_no_opcode rfl

theorem txReportAnalog (pin enable : Byte) : Statement (.txReportAnalog pin enable) := of_no_opcode rfl

theorem txReportDigital (port enable : Byte) : Statement (.txReportDigital port enable) := of_no_opcode rfl

theorem txCapsQuery : Statement (.txCapsQuery) := of_no_opcode rfl

theorem txAmapQuery : Statement (.txAmapQuery) := of_no_opcode rfl

theorem txI2cRequest (address regflags : List TxField) (payload : List Byte) : Statement (.txI2cRequest address regflags payload) := of_no_opcode rfl

theorem txI2cConfig (fields : List TxField) : Statement (.txI2cConfig fields) := of_no_opcode rfl

theorem txSamplingInterval (fields : List TxField) : Statement (.txSamplingInterval fields) := of_no_opcode rfl

theorem txPinStateQuery (fields : List TxField) : Statement (.txPinStateQuery fields) := of_no_opcode rfl

end Sys2Proof.Laws.Selects
end

