-- ==== Sys2Proof/Laws/Rows.lean ====
section
/-!
SUPPORT. What the decoder answers on a completed message: a row that is well formed and whose bytes are the message's.
-/

namespace Sys2Proof.Machine

theorem nibble_cases : ∀ n : Nibble, n = 0x0 ∨ n = 0x1 ∨ n = 0x2 ∨ n = 0x3 ∨ n = 0x4 ∨ n = 0x5 ∨ n = 0x6 ∨ n = 0x7 ∨
    n = 0x8 ∨ n = 0x9 ∨ n = 0xA ∨ n = 0xB ∨ n = 0xC ∨ n = 0xD ∨ n = 0xE ∨ n = 0xF := by
  decide

/-- Every first byte but the start marker has a short row, and it keeps the message's bytes (R51, R56). -/
theorem shortRow_eq_some {first : Byte} (hf : first ≠ Wire.sysexStart) (d0 d1 : Byte) :
    ∃ i, shortRow first d0 d1 = some i ∧ messageBytes i = [first, d0, d1] ∧ i.wf = true ∧ i.stage = .shortFirst ∧
      isCall i = false := by
  have key : ∀ h l : Nibble, (h = 0xF → l ≠ 0) → ∃ i, shortRow (Byte.ofNibbles h l) d0 d1 = some i ∧
      messageBytes i = [Byte.ofNibbles h l, d0, d1] ∧ i.wf = true ∧ i.stage = .shortFirst ∧ isCall i = false := by
    intro h l hne
    simp only [shortRow, hiNibble_ofNibbles, loNibble_ofNibbles]
    by_cases h15 : h = 0xF
    · subst h15
      have hl : l ≠ 0 := hne rfl
      rcases nibble_cases l with rfl | rfl | rfl | rfl | rfl | rfl | rfl | rfl | rfl | rfl | rfl | rfl | rfl | rfl | rfl | rfl <;>
        first | exact absurd rfl hl | exact ⟨_, rfl, rfl, rfl, rfl, rfl⟩
    · rcases nibble_cases h with rfl | rfl | rfl | rfl | rfl | rfl | rfl | rfl | rfl | rfl | rfl | rfl | rfl | rfl | rfl | rfl <;>
        first | exact absurd rfl h15 | exact ⟨_, rfl, rfl, rfl, rfl, rfl⟩
  have h := key (hiNibble first) (loNibble first) (by revert first; decide)
  rwa [ofNibbles_hi_lo] at h

/-- Every accumulator has a sysex row, and it keeps the message's bytes (R52, R58). -/
theorem sysexRow_bytes (acc : List Byte) :
    messageBytes (sysexRow acc) = sysexBytes acc ∧ (bodyOk acc = true → (sysexRow acc).wf = true) ∧
      (sysexRow acc).stage = .sysexSubtype ∧ isCall (sysexRow acc) = false := by
  cases acc with
  | nil => exact ⟨rfl, fun _ => rfl, rfl, rfl⟩
  | cons sub p =>
    simp only [sysexRow]
    repeat' split
    all_goals first
      | (rename_i h
         subst h
         refine ⟨rfl, fun hb => ?_, rfl, rfl⟩
         simp only [bodyOk_cons, Bool.and_eq_true] at hb
         exact hb.2)
      | skip
    refine ⟨rfl, fun hb => ?_, rfl, rfl⟩
    simp only [bodyOk_cons, Bool.and_eq_true, decide_eq_true_eq] at hb
    simp only [Instr.wf, Wire.namedSubtypes, List.mem_cons, List.not_mem_nil, or_false, not_or, Bool.and_eq_true,
      decide_eq_true_eq]
    refine ⟨⟨?_, hb.1⟩, hb.2⟩
    refine ⟨?_, ?_, ?_, ?_, ?_, ?_, ?_, ?_, ?_, ?_, ?_⟩ <;> assumption

end Sys2Proof.Machine
end

