-- ==== Sys2Proof/Laws/Step.lean ====
section
/-!
SUPPORT. What one step can do, said once, and a run as steps.
-/

namespace Sys2Proof.Machine

/-- Every next state of a step: a wait, a symbol run, a symbol a halted reader ignores, a call run, the write line, `rst`. -/
theorem step_next {s t : State} (h : step s = .next t) :
    (s.env = [] ∧ t = s) ∨
    (∃ x rest ph, s.env = .sym x :: rest ∧ s.phase = some ph ∧
      exec (decodeSymbol ph x) { s with env := rest, pos := s.pos + 1 } = .next t) ∨
    (∃ x rest, s.env = .sym x :: rest ∧ s.phase = none ∧ t = { s with env := rest }) ∨
    (∃ i rest, s.env = .call i :: rest ∧ isCall i = true ∧ exec i { s with env := rest } = .next t) ∨
    (∃ up rest, s.env = .txLine up :: rest ∧ t = { s with env := rest, txUp := up }) ∨
    (∃ rest, s.env = .rst :: rest ∧ t = ({ s with env := rest } : State).resetInstance) := by
  unfold step fetch at h
  split at h <;> rename_i hf
  · split at hf
    · cases hf
    · next x rest he =>
      split at hf <;> cases hf
      next ph hp => exact .inr (.inl ⟨x, rest, ph, he, hp, h⟩)
    · next i rest he =>
      split at hf <;> cases hf
      next hc => exact .inr (.inr (.inr (.inl ⟨_, rest, he, hc, h⟩)))
    · cases hf
    · cases hf
  · cases h
    split at hf
    · next he => cases hf; exact .inl ⟨he, rfl⟩
    · next x rest he =>
      split at hf <;> cases hf
      next hp => exact .inr (.inr (.inl ⟨x, rest, he, hp, rfl⟩))
    · split at hf <;> cases hf
    · next up rest he => cases hf; exact .inr (.inr (.inr (.inr (.inl ⟨up, rest, he, rfl⟩))))
    · next rest he => cases hf; exact .inr (.inr (.inr (.inr (.inr ⟨rest, he, rfl⟩))))
  · cases h

/-- A symbol read in a phase runs the instruction it is. -/
theorem step_sym {s : State} {x : Symbol} {rest : List Stimulus} {ph : Phase} (he : s.env = .sym x :: rest)
    (hp : s.phase = some ph) : step s = exec (decodeSymbol ph x) { s with env := rest, pos := s.pos + 1 } := by
  simp only [step, fetch, he, hp]
  rfl

/-- The row of a symbol read in the reader's phase always completes (R100: total on every state but `Halted`). -/
theorem exec_symbol_next {s s' : State} {ph : Phase} (x : Symbol) (hp : s.phase = some ph) (hs : s'.rs = s.rs)
    (hc : s'.cfg = s.cfg) : ∃ t, exec (decodeSymbol ph x) s' = .next t := by
  unfold State.phase at hp
  split at hp <;> cases hp
  · next hr =>
    cases x with
    | err => exact ⟨_, by simp [decodeSymbol, exec, execErrIdle, hs, hr]; rfl⟩
    | byte b =>
      simp only [decodeSymbol]
      split
      · exact ⟨_, by simp [exec, execSysexStart, hs, hr]; rfl⟩
      · next hb => exact ⟨_, by simp [exec, execShortStart, hs, hr, hb]; rfl⟩
  · next acc hr =>
    cases x with
    | err => exact ⟨_, by simp [decodeSymbol, exec, execErrInSysex, hs, hr]; rfl⟩
    | byte b =>
      simp only [decodeSymbol]
      split
      · exact ⟨_, by simp [exec, execSysexEnd, hs, hr]; rfl⟩
      · next hb =>
        split
        · next hf => exact ⟨_, by simp [exec, execSysexOverflow, hs, hr, hb, hc, hf]; rfl⟩
        · next hf => exact ⟨_, by simp [exec, execSysexData, hs, hr, hb, hc, hf]; rfl⟩
  · next hr =>
    cases x with
    | err => exact ⟨_, by simp [decodeSymbol, exec, execErrInShort, hs, hr]; rfl⟩
    | byte b => exact ⟨_, by simp [decodeSymbol, exec, execShortData0, hs, hr]; rfl⟩
  · next hr =>
    cases x with
    | err => exact ⟨_, by simp [decodeSymbol, exec, execErrInShort, hs, hr]; rfl⟩
    | byte b => exact ⟨_, by simp [decodeSymbol, exec, execShortData1, hs, hr]; rfl⟩

/-- A reader with no phase is halted. -/
theorem phase_eq_none {s : State} : s.phase = none ↔ ∃ c, s.rs = .halted c := by
  unfold State.phase
  constructor
  · intro h
    split at h <;> first | (next c hc => exact ⟨c, hc⟩) | cases h
  · rintro ⟨c, h⟩
    rw [h]

@[simp] theorem runFor_zero (s : State) : runFor 0 s = .next s := rfl

/-- A run's first step. -/
theorem runFor_next {k : Nat} {s t : State} (h : step s = .next t) : runFor (k + 1) s = runFor k t := by
  refine (Host.Core.run.eq_2 core s k).trans ?_
  have e : core.step s = .next t := h
  rw [e]
  rfl

/-- A run that ends in a next state, split after its first step. -/
theorem runFor_succ_next {k : Nat} {s t : State} (h : runFor (k + 1) s = .next t) :
    ∃ u, step s = .next u ∧ runFor k u = .next t := by
  replace h := (Host.Core.run.eq_2 core s k).symm.trans h
  split at h
  · next u e => exact ⟨u, e, h⟩
  · cases h
  · cases h

/-- A run split where its first `j` steps end. -/
theorem runFor_add {j : Nat} (k : Nat) {s t : State} (h : runFor j s = .next t) : runFor (j + k) s = runFor k t := by
  induction j generalizing s with
  | zero => cases h; rw [Nat.zero_add]
  | succ j ih =>
    obtain ⟨u, hu, hk⟩ := runFor_succ_next h
    rw [Nat.add_right_comm, runFor_next hu]
    exact ih hk

end Sys2Proof.Machine
end

