-- ==== Sys2Proof/Tests/Slice0.lean ====
section
/-!
SUPPORT. The model's own tests, each by decide, and one witness for the hypotheses of every statement. Expected results come
from spec/95_test_vectors.md (S, T, Y, H, X and B numbers, and the codec tables) or are written out from the rule named.
-/

open Sys2Proof Sys2Proof.Machine Sys2Proof.Claims

namespace Sys2Proof.Tests

/-! ## Small states -/

/-- The reset state with this reader state. -/
def st (rs : RState) : State := { State.reset with rs := rs }

/-- The reset state with these stimuli to come. -/
def withEnv (rs : RState) (e : List Stimulus) : State := { State.reset with rs := rs, env := e }

/-- The next state of one step in which this symbol is presented. -/
def read (s : State) (x : Symbol) : Option State :=
  match step (s.present x) with
  | .next t => some t
  | _ => none

/-- The next state of an instruction. -/
def after (i : Instr) (s : State) : Option State :=
  match exec i s with
  | .next t => some t
  | _ => none

/-- The reader state and the events of a next state. -/
def seen (t : Option State) : Option (RState × List Event) := t.map fun t => (t.rs, t.out)

/-- The values returned by a call from reset. -/
def returned (i : Instr) : Option (List Ret) := (after i State.reset).map (·.ret)

/-- The frames written by a call from reset. -/
def sent (i : Instr) : Option (List (List Byte)) := (after i State.reset).map (·.tx)

/-- The message a completed sysex row delivers (Y vectors). -/
def delivered (acc : List Byte) : Option (RState × List Event) := seen (after (sysexRow acc) (st (.inSysex acc)))

/-- The reader with one data byte of a short message to come. -/
def atLast (first d0 : Byte) : State := st (.inShort first (cmdOf first) (.one d0))

/-! ## Well-formedness: each check refuses an ill-formed term -/

theorem test_wf_refuses_shortStart : (Instr.shortStart 0xF0).wf = false := by decide

theorem test_wf_refuses_sysexData : (Instr.sysexData 0xF7).wf = false := by decide

theorem test_wf_refuses_sysexOverflow : (Instr.sysexOverflow 0xF7).wf = false := by decide

theorem test_wf_refuses_firmware : (Instr.firmware [0x02, 0x05, 0xF7]).wf = false := by decide

theorem test_wf_refuses_caps : (Instr.caps [0xF7]).wf = false := by decide

theorem test_wf_refuses_amap : (Instr.amap [0xF7]).wf = false := by decide

theorem test_wf_refuses_pinState : (Instr.pinState [0xF7]).wf = false := by decide

theorem test_wf_refuses_i2cReply : (Instr.i2cReply [0xF7]).wf = false := by decide

theorem test_wf_refuses_sysexAmapQuery : (Instr.sysexAmapQuery [0xF7]).wf = false := by decide

theorem test_wf_refuses_sysexCapsQuery : (Instr.sysexCapsQuery [0xF7]).wf = false := by decide

theorem test_wf_refuses_sysexPinStateQuery : (Instr.sysexPinStateQuery [0xF7]).wf = false := by decide

theorem test_wf_refuses_sysexI2cRequest : (Instr.sysexI2cRequest [0xF7]).wf = false := by decide

theorem test_wf_refuses_sysexI2cConfig : (Instr.sysexI2cConfig [0xF7]).wf = false := by decide

theorem test_wf_refuses_sysexSamplingInterval : (Instr.sysexSamplingInterval [0xF7]).wf = false := by decide

theorem test_wf_refuses_sysexOther_named : (Instr.sysexOther 0x79 []).wf = false := by decide

theorem test_wf_refuses_sysexOther_marker : (Instr.sysexOther 0xF7 []).wf = false := by decide

theorem test_wf_refuses_sysexOther_body : (Instr.sysexOther 0x00 [0xF7]).wf = false := by decide

theorem test_wf_refuses_encode7pair : (Instr.encode7pair 16384).wf = false := by decide

theorem test_wf_refuses_unpack : (Instr.unpackByteStream [0x05]).wf = false := by decide

theorem test_wf_refuses_portOf : (Instr.portOfBitOf 128).wf = false := by decide

theorem test_wf_refuses_writeDigital_pin : (Instr.txWriteDigital 128 1).wf = false := by decide

theorem test_wf_refuses_writeDigital_level : (Instr.txWriteDigital 13 2).wf = false := by decide

theorem test_wf_refuses_writeAnalog_pin : (Instr.txWriteAnalog 16 0).wf = false := by decide

theorem test_wf_refuses_writeAnalog_value : (Instr.txWriteAnalog 15 16384).wf = false := by decide

theorem test_wf_refuses_reportAnalog_pin : (Instr.txReportAnalog 16 1).wf = false := by decide

theorem test_wf_refuses_reportAnalog_enable : (Instr.txReportAnalog 0 2).wf = false := by decide

theorem test_wf_refuses_reportDigital_port : (Instr.txReportDigital 16 1).wf = false := by decide

theorem test_wf_refuses_reportDigital_enable : (Instr.txReportDigital 0 2).wf = false := by decide

theorem test_wf_refuses_i2cRequest_address : (Instr.txI2cRequest [.byte 0x80] [] []).wf = false := by decide

theorem test_wf_refuses_i2cRequest_regflags : (Instr.txI2cRequest [] [.byte 0x80] []).wf = false := by decide

theorem test_wf_refuses_i2cConfig : (Instr.txI2cConfig [.byte 0x80]).wf = false := by decide

theorem test_wf_refuses_samplingInterval : (Instr.txSamplingInterval [.byte 0x80]).wf = false := by decide

theorem test_wf_refuses_wide_field : (Instr.txSamplingInterval [.wide 16384]).wf = false := by decide

theorem test_wf_refuses_pinStateQuery : (Instr.txPinStateQuery [.byte 0x80]).wf = false := by decide

/-- The values just inside the checks. -/
theorem test_wf_accepts_boundaries :
    ∀ i ∈ [Instr.shortStart 0xF1, .shortStart 0xF7, .sysexData 0xF0, .sysexOther 0xF0 [0x79], .encode7pair 16383,
      .unpackByteStream [0x05, 0x00], .portOfBitOf 127, .txWriteDigital 127 1, .txWriteAnalog 15 16383,
      .txReportAnalog 15 1, .txReportDigital 15 0, .txI2cRequest [.byte 0x7F] [.wide 16383] [0xFF], .txI2cConfig []], i.wf = true := by
  decide

/-! ## Decoding: words written out bit by bit from R51, R52, R56 and R58 -/

/-- The reader's rows, by phase (R100). -/
theorem test_decode_symbols :
    decodeSymbol .idle (.byte 0b11110000) = .sysexStart ∧
    decodeSymbol .idle (.byte 0b11110111) = .shortStart 0xF7 ∧
    decodeSymbol (.inSysex false) (.byte 0b11110111) = .sysexEnd ∧
    decodeSymbol (.inSysex true) (.byte 0b11110111) = .sysexEnd ∧
    decodeSymbol (.inSysex false) (.byte 0b11110000) = .sysexData 0xF0 ∧
    decodeSymbol (.inSysex true) (.byte 0b00000001) = .sysexOverflow 0x01 ∧
    decodeSymbol (.inShort false) (.byte 0b11110000) = .shortData0 0xF0 ∧
    decodeSymbol (.inShort true) (.byte 0b11110111) = .shortData1 0xF7 ∧
    decodeSymbol .idle .err = .errIdle ∧ decodeSymbol (.inSysex false) .err = .errInSysex ∧
    decodeSymbol (.inShort true) .err = .errInShort := by
  decide

/-- The channel rows: command in bits 7 to 4, channel in bits 3 to 0; first data byte 0x7F, second 0x01 (R51, R56). -/
theorem test_decode_channel_rows :
    decodeMessage [0b00000011, 0b01111111, 0b00000001] = .ok (.short00 0x3 0x7F 0x01, []) ∧
    decodeMessage [0b00011010, 0b01111111, 0b00000001] = .ok (.short10 0xA 0x7F 0x01, []) ∧
    decodeMessage [0b00100001, 0b01111111, 0b00000001] = .ok (.short20 0x1 0x7F 0x01, []) ∧
    decodeMessage [0b00111000, 0b01111111, 0b00000001] = .ok (.short30 0x8 0x7F 0x01, []) ∧
    decodeMessage [0b01001111, 0b01111111, 0b00000001] = .ok (.short40 0xF 0x7F 0x01, []) ∧
    decodeMessage [0b01010110, 0b01111111, 0b00000001] = .ok (.short50 0x6 0x7F 0x01, []) ∧
    decodeMessage [0b01101101, 0b01111111, 0b00000001] = .ok (.short60 0xD 0x7F 0x01, []) ∧
    decodeMessage [0b01110100, 0b01111111, 0b00000001] = .ok (.short70 0x4 0x7F 0x01, []) ∧
    decodeMessage [0b10001011, 0b01111111, 0b00000001] = .ok (.short80 0xB 0x7F 0x01, []) ∧
    decodeMessage [0b10010010, 0b01111111, 0b00000001] = .ok (.digital 0x2 0x7F 0x01, []) ∧
    decodeMessage [0b10101001, 0b01111111, 0b00000001] = .ok (.shortA0 0x9 0x7F 0x01, []) ∧
    decodeMessage [0b10110000, 0b01111111, 0b00000001] = .ok (.shortB0 0x0 0x7F 0x01, []) ∧
    decodeMessage [0b11000111, 0b01111111, 0b00000001] = .ok (.reportAnalog 0x7 0x7F 0x01, []) ∧
    decodeMessage [0b11011110, 0b01111111, 0b00000001] = .ok (.reportDigital 0xE 0x7F 0x01, []) ∧
    decodeMessage [0b11100101, 0b01111111, 0b00000001] = .ok (.analog 0x5 0x7F 0x01, []) := by
  exact ⟨rfl, rfl, rfl, rfl, rfl, rfl, rfl, rfl, rfl, rfl, rfl, rfl, rfl, rfl, rfl⟩

/-- The whole-byte rows (R51, R56). -/
theorem test_decode_whole_byte_rows :
    decodeMessage [0b11110001, 0b00000010, 0b00000101] = .ok (.shortF1 0x02 0x05, []) ∧
    decodeMessage [0b11110010, 0b00000010, 0b00000101] = .ok (.shortF2 0x02 0x05, []) ∧
    decodeMessage [0b11110011, 0b00000010, 0b00000101] = .ok (.shortF3 0x02 0x05, []) ∧
    decodeMessage [0b11110100, 0b00000010, 0b00000101] = .ok (.pinMode 0x02 0x05, []) ∧
    decodeMessage [0b11110101, 0b00000010, 0b00000101] = .ok (.shortF5 0x02 0x05, []) ∧
    decodeMessage [0b11110110, 0b00000010, 0b00000101] = .ok (.shortF6 0x02 0x05, []) ∧
    decodeMessage [0b11110111, 0b00000010, 0b00000101] = .ok (.shortF7 0x02 0x05, []) ∧
    decodeMessage [0b11111000, 0b00000010, 0b00000101] = .ok (.shortF8 0x02 0x05, []) ∧
    decodeMessage [0b11111001, 0b00000010, 0b00000101] = .ok (.version 0x02 0x05, []) ∧
    decodeMessage [0b11111010, 0b00000010, 0b00000101] = .ok (.shortFA 0x02 0x05, []) ∧
    decodeMessage [0b11111011, 0b00000010, 0b00000101] = .ok (.shortFB 0x02 0x05, []) ∧
    decodeMessage [0b11111100, 0b00000010, 0b00000101] = .ok (.shortFC 0x02 0x05, []) ∧
    decodeMessage [0b11111101, 0b00000010, 0b00000101] = .ok (.shortFD 0x02 0x05, []) ∧
    decodeMessage [0b11111110, 0b00000010, 0b00000101] = .ok (.shortFE 0x02 0x05, []) ∧
    decodeMessage [0b11111111, 0b00000010, 0b00000101] = .ok (.shortFF 0x02 0x05, []) := by
  exact ⟨rfl, rfl, rfl, rfl, rfl, rfl, rfl, rfl, rfl, rfl, rfl, rfl, rfl, rfl, rfl⟩

/-- The sysex rows: start marker, subtype, payload, end marker; a byte after the message is left over (R52, R53, R58). -/
theorem test_decode_sysex_rows :
    decodeMessage [0b11110000, 0b01111001, 0b00010000, 0b11110111, 0b00000101] = .ok (.firmware [0x10], [0x05]) ∧
    decodeMessage [0b11110000, 0b01101100, 0b00010000, 0b11110111, 0b00000101] = .ok (.caps [0x10], [0x05]) ∧
    decodeMessage [0b11110000, 0b01101010, 0b00010000, 0b11110111, 0b00000101] = .ok (.amap [0x10], [0x05]) ∧
    decodeMessage [0b11110000, 0b01101110, 0b00010000, 0b11110111, 0b00000101] = .ok (.pinState [0x10], [0x05]) ∧
    decodeMessage [0b11110000, 0b01110111, 0b00010000, 0b11110111, 0b00000101] = .ok (.i2cReply [0x10], [0x05]) ∧
    decodeMessage [0b11110000, 0b01101001, 0b00010000, 0b11110111, 0b00000101] = .ok (.sysexAmapQuery [0x10], [0x05]) ∧
    decodeMessage [0b11110000, 0b01101011, 0b00010000, 0b11110111, 0b00000101] = .ok (.sysexCapsQuery [0x10], [0x05]) ∧
    decodeMessage [0b11110000, 0b01101101, 0b00010000, 0b11110111, 0b00000101] = .ok (.sysexPinStateQuery [0x10], [0x05]) ∧
    decodeMessage [0b11110000, 0b01110110, 0b00010000, 0b11110111, 0b00000101] = .ok (.sysexI2cRequest [0x10], [0x05]) ∧
    decodeMessage [0b11110000, 0b01111000, 0b00010000, 0b11110111, 0b00000101] = .ok (.sysexI2cConfig [0x10], [0x05]) ∧
    decodeMessage [0b11110000, 0b01111010, 0b00010000, 0b11110111, 0b00000101] = .ok (.sysexSamplingInterval [0x10], [0x05]) ∧
    decodeMessage [0b11110000, 0b11110000, 0b01111001, 0b11110111] = .ok (.sysexOther 0xF0 [0x79], []) ∧
    decodeMessage [0b11110000, 0b11110111] = .ok (.sysexEmpty, []) := by
  exact ⟨rfl, rfl, rfl, rfl, rfl, rfl, rfl, rfl, rfl, rfl, rfl, rfl, rfl⟩

/-- What is no complete message is refused by name (R214: it only waits in the reader). -/
theorem test_decode_refusals :
    decodeMessage [] = .error .noByte ∧ decodeMessage [0xF0, 0x6C] = .error .unterminatedSysex ∧
    decodeMessage [0xE3, 0x7F] = .error .missingDataBytes := by
  exact ⟨rfl, rfl, rfl⟩

/-- The encoder's rows are selected by the frame's first byte, or a sysex frame's subtype byte (R65). -/
theorem test_tx_rows :
    selectRow .tx none 0b11110100 = some "TX_SET_PIN_MODE" ∧ selectRow .tx none 0b10010001 = some "TX_WRITE_DIGITAL" ∧
    selectRow .tx none 0b11100011 = some "TX_WRITE_ANALOG" ∧ selectRow .tx none 0b11000010 = some "TX_REPORT_ANALOG" ∧
    selectRow .tx none 0b11010001 = some "TX_REPORT_DIGITAL" ∧ selectRow .tx none 0b01101011 = some "TX_CAPS_QUERY" ∧
    selectRow .tx none 0b01101001 = some "TX_AMAP_QUERY" ∧ selectRow .tx none 0b01110110 = some "TX_I2C_REQUEST" ∧
    selectRow .tx none 0b01111000 = some "TX_I2C_CONFIG" ∧
    selectRow .tx none 0b01111010 = some "TX_SAMPLING_INTERVAL" ∧
    selectRow .tx none 0b01101101 = some "TX_PINSTATE_QUERY" ∧ selectRow .tx none 0b00000000 = none := by
  decide

/-- The command of a first byte (R54), around its bound. -/
theorem test_command_extraction :
    cmdOf 0xE3 = 0xE0 ∧ cmdOf 0xEF = 0xE0 ∧ cmdOf 0xF1 = 0xF1 ∧ cmdOf 0x05 = 0x00 ∧ cmdOf 0x7F = 0x70 := by
  decide

/-- A table word, and the row placed right after reset is the one its step completes. -/
theorem test_table_words :
    decodeTableWord 8 0xF0 = some .sysexStart ∧ decodeTableWord 8 0xF7 = some .sysexEnd ∧
    decodeTableWord 8 0x79 = some (.firmware [0, 0]) ∧ decodeTableWord 8 0xE0 = some (.analog 0 0 0) ∧
    decodeTableWord 0 0 = none := by
  exact ⟨rfl, rfl, rfl, rfl, rfl⟩

theorem test_placed_row_runs :
    ∃ t, step (State.reset.withFetchWord 8 0x79) = .next t ∧ t.rs = .idle ∧ t.out = [.msg (.firmwareReport 0 0 [])] :=
  ⟨_, rfl, rfl, rfl⟩

/-- A data row is placed under a bound of 0 too. -/
theorem test_placed_data_row_runs :
    ∃ t, step (({ State.reset with cfg := { sysexMax := some 0, unmapped := 127 } } : State).place (.sysexData 0x05)) =
      .next t ∧ t.rs = .inSysex [0x05] :=
  ⟨_, rfl, rfl⟩

/-! ## The reader, one step each -/

/-- T1. -/
theorem test_sysex_start :
    seen (read (st .idle) (.byte 0xF0)) = some (.inSysex [], []) := by
  decide

/-- T4: the last byte below 0xF0. -/
theorem test_short_start_channel :
    seen (read (st .idle) (.byte 0xEF)) = some (.inShort 0xEF 0xE0 .two, []) := by
  decide

/-- T8: the end marker while idle. -/
theorem test_short_start_end_marker :
    seen (read (st .idle) (.byte 0xF7)) = some (.inShort 0xF7 0xF7 .two, []) := by
  decide

/-- T12: the start marker inside a body. -/
theorem test_sysex_data_start_marker :
    seen (read (st (.inSysex [0x6C])) (.byte 0xF0)) = some (.inSysex [0x6C, 0xF0], []) := by
  decide

/-- T13. -/
theorem test_sysex_data_high_byte :
    seen (read (st (.inSysex [0x6C])) (.byte 0xFF)) = some (.inSysex [0x6C, 0xFF], []) := by
  decide

/-- T14. -/
theorem test_sysex_end :
    seen (read (st (.inSysex [0x6C, 0x00, 0x01, 0x7F])) (.byte 0xF7)) = some (.idle, [.msg (.capabilityReport [[(0, 1)]])]) := by
  decide

/-- T17: a marker as data. -/
theorem test_short_data0_marker :
    seen (read (st (.inShort 0xE3 0xE0 .two)) (.byte 0xF0)) = some (.inShort 0xE3 0xE0 (.one 0xF0), []) := by
  decide

/-- T18. -/
theorem test_short_data1 :
    seen (read (st (.inShort 0xE3 0xE0 (.one 0x7F))) (.byte 0x01)) = some (.idle, [.msg (.analogValue 3 255)]) := by
  decide

/-- T19. -/
theorem test_short_data1_out_of_protocol :
    seen (read (st (.inShort 0xE3 0xE0 (.one 0x7F))) (.byte 0xF7)) = some (.idle, [.msg (.analogValue 3 31743)]) := by
  decide

/-- T20. -/
theorem test_err_idle :
    seen (read (st .idle) .err) = some (.halted .transportError, [.fatal .transportError]) := by
  decide

/-- T21. -/
theorem test_err_insysex :
    seen (read (st (.inSysex [0x6C, 0x00])) .err) = some (.halted .malformedFrame, [.fatal .malformedFrame]) := by
  decide

/-- T22. -/
theorem test_err_inshort_two :
    seen (read (st (.inShort 0xE3 0xE0 .two)) .err) = some (.halted .malformedFrame, [.fatal .malformedFrame]) := by
  decide

/-- T23. -/
theorem test_err_inshort_one :
    seen (read (st (.inShort 0xE3 0xE0 (.one 0x7F))) .err) = some (.halted .malformedFrame, [.fatal .malformedFrame]) := by
  decide

/-- T24. -/
theorem test_halted_ignores :
    seen (read (st (.halted .transportError)) (.byte 0xF0)) = some (.halted .transportError, []) := by
  decide

/-- T25, T26: `SYSEX_MAX` is 2 and the accumulator holds two bytes. -/
theorem test_sysex_overflow :
    seen (read { st (.inSysex [0x6C, 0x00]) with cfg := { sysexMax := some 2, unmapped := 127 } } (.byte 0x01)) =
      some (.halted .accOverflow, [.fatal .accOverflow]) := by
  decide

theorem test_full_accumulator_completes :
    seen (read { st (.inSysex [0x6C, 0x00]) with cfg := { sysexMax := some 2, unmapped := 127 } } (.byte 0xF7)) =
      some (.idle, [.msg (.unknown [0x6C, 0x00])]) := by
  decide

/-- R12: each consumed symbol counts; R112: a halted reader consumes none. -/
theorem test_pos :
    (read State.reset (.byte 0x05)).map (·.pos) = some 1 ∧
    (read (st (.halted .malformedFrame)) .err).map (·.pos) = some 0 := by
  decide

/-- R205: reset leaves `Halted`. -/
theorem test_rst :
    ∃ t, step { withEnv (.halted .accOverflow) [.rst] with pos := 7, out := [.fatal .accOverflow] } = .next t ∧
      t.rs = .idle ∧ t.pos = 0 ∧ t.out = [] :=
  ⟨_, rfl, rfl, rfl, rfl⟩

/-! ## Completed messages, one step each -/

/-- Y6. -/
theorem test_firmware_name :
    delivered [0x79, 0x02, 0x05, 0x41, 0x00, 0x42, 0x00] = some (.idle, [.msg (.firmwareReport 2 5 [0x41, 0x42])]) := by
  decide

/-- Y5. -/
theorem test_firmware_odd_name :
    delivered [0x79, 0x02, 0x05, 0x41] = some (.idle, [.msg (.unknown [0x79, 0x02, 0x05, 0x41])]) := by
  decide

/-- Y11, S3. -/
theorem test_caps_two_pins :
    delivered [0x6C, 0x00, 0x01, 0x7F, 0x01, 0x01, 0x7F] = some (.idle, [.msg (.capabilityReport [[(0, 1)], [(1, 1)]])]) := by
  decide

/-- Y13. -/
theorem test_caps_resolution_127 :
    delivered [0x6C, 0x00, 0x7F, 0x7F] = some (.idle, [.msg (.capabilityReport [[(0, 127)]])]) := by
  decide

/-- Y14. -/
theorem test_caps_not_closed :
    delivered [0x6C, 0x00, 0x01] = some (.idle, [.msg (.unknown [0x6C, 0x00, 0x01])]) := by
  decide

/-- Y18. -/
theorem test_amap_raw :
    delivered [0x6A, 0x7F, 0x7F, 0x00, 0x01] = some (.idle, [.msg (.analogMappingReport [127, 127, 0, 1])]) := by
  decide

/-- Y24. -/
theorem test_pin_state_bytes :
    delivered [0x6E, 0x0D, 0x01, 0x01, 0x01, 0x01] = some (.idle, [.msg (.pinStateReport 13 1 16513)]) := by
  decide

/-- Y20. -/
theorem test_pin_state_short :
    delivered [0x6E, 0x0D] = some (.idle, [.msg (.unknown [0x6E, 0x0D])]) := by
  decide

/-- Y30, S5. -/
theorem test_i2c_reply :
    delivered [0x77, 0x10, 0x00, 0x20, 0x00, 0x05, 0x00] = some (.idle, [.msg (.i2cReply 16 32 [5])]) := by
  decide

/-- Y29. -/
theorem test_i2c_reply_odd :
    delivered [0x77, 0x10, 0x00, 0x20, 0x00, 0x05] = some (.idle, [.msg (.unknown [0x77, 0x10, 0x00, 0x20, 0x00, 0x05])]) := by
  decide

/-- Y1. -/
theorem test_sysex_empty :
    delivered [] = some (.idle, [.msg (.unknown [])]) := by
  decide

/-- Y36. -/
theorem test_sysex_other_start_marker :
    delivered [0xF0, 0x79] = some (.idle, [.msg (.unknown [0xF0, 0x79])]) := by
  decide

/-- Y33, Y34: the query and configuration subtypes have no decode (R127). -/
theorem test_sysex_queries :
    ∀ acc ∈ ([[0x6B], [0x69], [0x6D, 0x05], [0x76, 0x01], [0x78], [0x7A, 0x13, 0x00]] : List (List Byte)),
      delivered acc = some (.idle, [.msg (.unknown acc)]) := by
  decide

/-- H1 to H14, R143: the fourteen channel rows without a decode keep the channel in `raw`. -/
theorem test_channel_rows :
    ∀ h ∈ [0x0, 0x1, 0x2, 0x3, 0x4, 0x5, 0x6, 0x7, 0x8, 0x9, 0xA, 0xB, 0xC, 0xD],
      let first : Byte := BitVec.ofNat 8 (16 * h + 5)
      ∃ i, shortRow first 0xF0 0x6C = some i ∧
        seen (after i (atLast first 0xF0)) = some (.idle, [.msg (.unknown [first, 0xF0, 0x6C])]) := by
  simp only [List.forall_mem_cons]
  refine ⟨?_, ?_, ?_, ?_, ?_, ?_, ?_, ?_, ?_, ?_, ?_, ?_, ?_, ?_, by simp⟩ <;> exact ⟨_, rfl, by decide⟩

/-- H12, H13, R143: the fourteen whole-byte rows without a decode. -/
theorem test_whole_byte_rows :
    ∀ first ∈ ([0xF1, 0xF2, 0xF3, 0xF4, 0xF5, 0xF6, 0xF7, 0xF8, 0xFA, 0xFB, 0xFC, 0xFD, 0xFE, 0xFF] : List Byte),
      ∃ i, shortRow first 0xF0 0xF7 = some i ∧
        seen (after i (atLast first 0xF0)) = some (.idle, [.msg (.unknown [first, 0xF0, 0xF7])]) := by
  simp only [List.forall_mem_cons]
  refine ⟨?_, ?_, ?_, ?_, ?_, ?_, ?_, ?_, ?_, ?_, ?_, ?_, ?_, ?_, by simp⟩ <;> exact ⟨_, rfl, by decide⟩

/-- H3 and H5. -/
theorem test_analog :
    seen (after (.analog 15 0x7F 0x7F) (atLast 0xEF 0x7F)) = some (.idle, [.msg (.analogValue 15 16383)]) ∧
    seen (after (.analog 15 0xFF 0xFF) (atLast 0xEF 0xFF)) = some (.idle, [.msg (.analogValue 15 32767)]) := by
  decide

/-- H7. -/
theorem test_version :
    seen (after (.version 0xFF 0x80) (atLast 0xF9 0xFF)) = some (.idle, [.msg (.protocolVersion 255 128)]) := by
  decide

/-! ## BoardState (R173 to R178) -/

theorem test_board_firmware :
    (after (.firmware [2, 5]) (st (.inSysex [0x79, 2, 5]))).map (·.board.fwver) = some (some (2, 5)) := by
  decide

/-- R174: a second capability response changes nothing. -/
theorem test_board_caps_once :
    (after (.caps [0x7F]) { st (.inSysex [0x6C, 0x7F]) with board := { Board.reset with captable := some [] } }).map
      (·.board.captable) = some (some []) := by
  decide

/-- R175 with the default `UNMAPPED`. -/
theorem test_board_amap :
    (after (.amap [127, 0]) (st (.inSysex [0x6A, 127, 0]))).map (·.board.amap) =
      some (some [.unmapped, .channel 0]) := by
  decide

theorem test_board_analog :
    (after (.analog 3 0x7F 0x01) (atLast 0xE3 0x7F)).map (fun t => (t.board.analog 3, t.board.analog 2)) = some (255, 0) := by
  decide

theorem test_board_version :
    (after (.version 2 5) (atLast 0xF9 2)).map (·.board.protover) = some (some (2, 5)) := by
  decide

/-! ## Codec functions (tables of 95_test_vectors.md section 2.1) -/

theorem test_decode14 :
    returned (.decode14 0x80 0x01) = some [.half 128] ∧ returned (.decode14 0xFF 0xFF) = some [.half 32767] := by
  decide

theorem test_encode7pair :
    returned (.encode7pair 4660) = some [.pair 0x34 0x24] ∧ returned (.encode7pair 16385) = some [.pair 0x01 0x00] := by
  decide

theorem test_pack : returned (.packByteStream [0x05, 0xFF, 0x80]) = some [.bytes [0x05, 0x00, 0x7F, 0x01, 0x00, 0x01]] := by
  decide

theorem test_unpack :
    returned (.unpackByteStream [0x05, 0x00, 0x7F, 0x01, 0x00, 0x01]) = some [.halves [5, 255, 128]] ∧
    returned (.unpackByteStream [0xFF, 0xFF]) = some [.halves [32767]] := by
  decide

theorem test_decode_le7 :
    returned (.decodeLe7 [0x01, 0x01, 0x01]) = some [.nat 16513] ∧ returned (.decodeLe7 [0x80, 0x01]) = some [.nat 128] := by
  decide

theorem test_port_bit :
    returned (.portOfBitOf 13) = some [.portBit 1 5] ∧ returned (.portOfBitOf 127) = some [.portBit 15 7] := by
  decide

/-! ## The encoder -/
/-- E1, E2: seven bits of the pin and of the mode. -/
theorem test_tx_set_pin_mode :
    sent (.txSetPinMode 13 1) = some [[0xF4, 0x0D, 0x01]] ∧ sent (.txSetPinMode 200 129) = some [[0xF4, 0x48, 0x01]] := by
  decide

/-- The frame and the port's cache byte of a digital write. -/
def digitalFrom (cache pin level : Byte) : Option (List (List Byte) × Byte) :=
  (after (.txWriteDigital pin level) { State.reset with board := Board.reset.setPort 1 cache }).map
    fun t => (t.tx, t.board.port 1)

/-- E3 and E5. -/
theorem test_tx_write_digital_set :
    digitalFrom 0x00 13 1 = some ([[0x91, 0x20, 0x00]], 0x20) ∧ digitalFrom 0x30 15 1 = some ([[0x91, 0x30, 0x01]], 0xB0) := by
  decide

/-- E6. -/
theorem test_tx_write_digital_clear : digitalFrom 0xB0 13 0 = some ([[0x91, 0x10, 0x01]], 0x90) := by
  decide

/-- E7 and E8. -/
theorem test_tx_write_analog :
    (after (.txWriteAnalog 3 255) State.reset).map (fun t => (t.tx, t.board.analog 3)) =
      some ([[0xE3, 0x7F, 0x01]], 255) ∧
    (after (.txWriteAnalog 15 16383) State.reset).map (fun t => (t.tx, t.board.analog 15)) =
      some ([[0xEF, 0x7F, 0x7F]], 16383) := by
  decide

/-- E9 to E12. -/
theorem test_tx_reports_and_queries :
    sent (.txReportAnalog 2 1) = some [[0xC2, 0x01]] ∧ sent (.txReportDigital 1 0) = some [[0xD1, 0x00]] ∧
    sent .txCapsQuery = some [[0xF0, 0x6B, 0xF7]] ∧ sent .txAmapQuery = some [[0xF0, 0x69, 0xF7]] := by
  decide

/-- E13 with R156 and R159. -/
theorem test_tx_i2c_request :
    sent (.txI2cRequest [.byte 0x10] [.byte 0x00] [0x05, 0xFF]) = some [[0xF0, 0x76, 0x10, 0x00, 0x05, 0x00, 0x7F, 0x01, 0xF7]] := by
  decide

/-- R156, R160, R161: byte fields as given, a multi-byte field by the encode7pair table (4660 is 34, 24). -/
theorem test_tx_fields :
    sent (.txI2cConfig [.byte 0x01, .wide 128]) = some [[0xF0, 0x78, 0x01, 0x00, 0x01, 0xF7]] ∧
    sent (.txSamplingInterval [.wide 4660]) = some [[0xF0, 0x7A, 0x34, 0x24, 0xF7]] ∧
    sent (.txPinStateQuery [.byte 0x0D]) = some [[0xF0, 0x6D, 0x0D, 0xF7]] := by
  decide

/-- R197: a failed write is the caller's, and the reader goes on. -/
theorem test_tx_failed :
    (after .txCapsQuery { State.reset with txUp := false }).map (fun t => (t.tx, t.ret, t.out)) =
      some ([], [.transportError], []) := by
  decide

/-! ## Witnesses: the hypotheses of each statement are met, by the statement's name -/

theorem witness_RstInputMakesNewInstance : (withEnv .idle [.rst]).env = .rst :: [] := rfl

theorem witness_WaitingAndHaltedReadersStay :
    State.reset.env = [] ∧
    ((withEnv (.halted .malformedFrame) [.sym .err]).rs = .halted .malformedFrame ∧
      (withEnv (.halted .malformedFrame) [.sym .err]).env = .sym .err :: []) :=
  ⟨rfl, rfl, rfl⟩

theorem witness_StepRunsTheDecodedInstruction :
    ((withEnv .idle [.sym (.byte 0xF0)]).env = .sym (.byte 0xF0) :: [] ∧
      (withEnv .idle [.sym (.byte 0xF0)]).phase = some .idle) ∧
    ((withEnv .idle [.call .txCapsQuery]).env = .call .txCapsQuery :: [] ∧ isCall .txCapsQuery = true) ∧
    ((withEnv .idle [.call .sysexStart]).env = .call .sysexStart :: [] ∧ isCall .sysexStart = false) ∧
    (withEnv .idle [.txLine false]).env = .txLine false :: [] := by
  decide

theorem witness_LastSymbolRunsTheMessageRow :
    (st (.inSysex [])).rs = .inSysex [] ∧
    ∀ first ∈ ([0x00, 0xEF, 0xF1, 0xFF] : List Byte),
      first ≠ 0xF0 ∧ (atLast first 0x7F).rs = .inShort first (cmdOf first) (.one 0x7F) := by
  decide

theorem witness_IdleSymbolOpensAMessage :
    State.reset.rs = .idle ∧ ∀ b ∈ ([0x00, 0xEF, 0xF1, 0xFF] : List Byte), b ≠ 0xF0 := by
  decide

theorem witness_ContinuationByteIsAppended :
    ∃ s : State, s.rs = .inSysex [0x6C] ∧ (0xF6 : Byte) ≠ 0xF7 ∧ s.cfg.sysexMax = some 2 ∧
      ∀ n, s.cfg.sysexMax = some n → [(0x6C : Byte)].length < n := by
  refine ⟨{ st (.inSysex [0x6C]) with cfg := { sysexMax := some 2, unmapped := 127 } }, rfl, by decide, rfl, ?_⟩
  intro n h
  cases h
  decide

theorem witness_FullAccumulatorOverflows :
    ∃ s : State, s.rs = .inSysex [] ∧ (0xF6 : Byte) ≠ 0xF7 ∧ s.cfg.sysexMax = some ([] : List Byte).length :=
  ⟨{ st (.inSysex []) with cfg := { sysexMax := some 0, unmapped := 127 } }, rfl, by decide, rfl⟩

theorem witness_EndMarkerCompletesTheMessage : (st (.inSysex [0x79, 2, 5])).rs = .inSysex [0x79, 2, 5] := rfl

theorem witness_FirstDataByteIsStored : (st (.inShort 0xE3 0xE0 .two)).rs = .inShort 0xE3 0xE0 .two := rfl

theorem witness_SecondDataByteCompletesTheMessage :
    (st (.inShort 0xE3 0xE0 (.one 0x7F))).rs = .inShort 0xE3 0xE0 (.one 0x7F) := rfl

theorem witness_TransportFailureHaltsTheReader :
    State.reset.rs = .idle ∧ (st (.inSysex [])).rs = .inSysex [] ∧
    (st (.inShort 0xE3 0xE0 .two)).rs = .inShort 0xE3 0xE0 .two ∧
    (st (.inShort 0xE3 0xE0 (.one 0))).rs = .inShort 0xE3 0xE0 (.one 0) :=
  ⟨rfl, rfl, rfl, rfl⟩

theorem witness_ChannelRowsWithoutDecodeAreUnknown :
    ∀ h ∈ ([0x0, 0x1, 0x2, 0x3, 0x4, 0x5, 0x6, 0x7, 0x8, 0x9, 0xA, 0xB, 0xC, 0xD] : List Nibble),
    ∀ c ∈ ([0x0, 0xF] : List Nibble),
      (atLast (h ++ c) 0xFF).rs = .inShort (h ++ c) ((h ++ c) &&& 0xF0) (.one 0xFF) := by
  decide

theorem witness_WholeByteRowsWithoutDecodeAreUnknown :
    ∀ first ∈ ([0xF1, 0xF2, 0xF3, 0xF4, 0xF5, 0xF6, 0xF7, 0xF8, 0xFA, 0xFB, 0xFC, 0xFD, 0xFE, 0xFF] : List Byte),
      (atLast first 0xFF).rs = .inShort first first (.one 0xFF) := by
  decide

theorem witness_AnalogMessageDeliversItsValue :
    (∀ c ∈ ([0x0, 0xF] : List Nibble), (atLast (0xE#4 ++ c) 0x7F).rs = .inShort (0xE#4 ++ c) 0xE0 (.one 0x7F)) ∧
    (0x7F : Byte).toNat < 128 := by
  decide

theorem witness_VersionMessageDeliversItsBytes : (atLast 0xF9 2).rs = .inShort 0xF9 0xF9 (.one 2) := by decide

theorem witness_FirmwareReportIsUnpackedOrUnknown :
    ((st (.inSysex [0x79, 2, 5])).rs = .inSysex (0x79 :: 2 :: 5 :: []) ∧ ([] : List Byte).length % 2 = 0) ∧
    ((st (.inSysex [0x79, 2])).rs = .inSysex (0x79 :: [2]) ∧ [(2 : Byte)].length < 2) ∧
    ((st (.inSysex [0x79, 2, 5, 0x41])).rs = .inSysex (0x79 :: [2, 5, 0x41]) ∧ [(2 : Byte), 5, 0x41].length % 2 = 1) := by
  decide

theorem witness_CapabilityListsAreDeliveredPerPin :
    (∀ l ∈ ([[(0x7E, 0x7F), (0x80, 0)], []] : List (List (Byte × Byte))), ∀ e ∈ l, e.1 ≠ 127) ∧
    (st (.inSysex (0x6C :: capsBytes [[(0x7E, 0x7F), (0x80, 0)], []]))).rs =
      .inSysex (0x6C :: capsBytes [[(0x7E, 0x7F), (0x80, 0)], []]) :=
  ⟨by simp; rintro a b (⟨rfl, rfl⟩ | ⟨rfl, rfl⟩) <;> decide, rfl⟩

theorem witness_CapabilityPayloadTilesOrIsUnknown :
    (st (.inSysex [0x6C])).rs = .inSysex (0x6C :: []) ∧ (st (.inSysex [0x6C, 0, 1])).rs = .inSysex (0x6C :: [0, 1]) :=
  ⟨rfl, rfl⟩

theorem witness_AnalogMappingFillsItsTableOnce : (st (.inSysex [0x6A, 127])).rs = .inSysex (0x6A :: [127]) := rfl

theorem witness_PinStateReportIsAnIntegerOrUnknown :
    (st (.inSysex [0x6E, 13, 1])).rs = .inSysex (0x6E :: 13 :: 1 :: []) ∧
    ((st (.inSysex [0x6E, 13])).rs = .inSysex (0x6E :: [13]) ∧ [(13 : Byte)].length < 2) := by
  decide

theorem witness_I2cReplyIsDecodedOrUnknown :
    ((st (.inSysex [0x77, 1, 2, 3, 4])).rs = .inSysex (0x77 :: 1 :: 2 :: 3 :: 4 :: []) ∧ ([] : List Byte).length % 2 = 0) ∧
    ((st (.inSysex [0x77, 1, 2, 3])).rs = .inSysex (0x77 :: [1, 2, 3]) ∧ [(1 : Byte), 2, 3].length < 4) ∧
    ((st (.inSysex [0x77, 1, 2, 3, 4, 5])).rs = .inSysex (0x77 :: [1, 2, 3, 4, 5]) ∧
      [(1 : Byte), 2, 3, 4, 5].length % 2 = 1) := by
  decide

theorem witness_OtherSubtypesAreUnknown :
    (∀ sub ∈ ([0x69, 0x6B, 0x6D, 0x76, 0x78, 0x7A] : List Byte), (st (.inSysex [sub])).rs = .inSysex (sub :: [])) ∧
    (∀ sub ∈ ([0x00, 0x68, 0x6F, 0x75, 0x7B, 0xF0, 0xFF] : List Byte),
      sub ∉ ([0x69, 0x6A, 0x6B, 0x6C, 0x6D, 0x6E, 0x76, 0x77, 0x78, 0x79, 0x7A] : List Byte) ∧
      (st (.inSysex [sub])).rs = .inSysex (sub :: [])) ∧
    (st (.inSysex [])).rs = .inSysex [] := by
  decide

theorem witness_UnknownExactlyWhenNothingFits :
    decodeSysex [0x79, 2] = .unknown [0x79, 2] ∧
    (0x00 : Byte) ∉ ([0x79, 0x6C, 0x6A, 0x6E, 0x77] : List Byte) ∧
    ([(2 : Byte)].length < 2 ∧ [(2 : Byte), 5, 0x41].length % 2 = 1) ∧ parseCaps [0x00, 0x01] = none ∧
    ([(1 : Byte), 2, 3].length < 4 ∧ [(1 : Byte), 2, 3, 4, 5].length % 2 = 1) ∧
    decodeShort 0x91 0x90 0x30 0x00 = .unknown [0x91, 0x30, 0x00] ∧ ((0x90 : Byte) ≠ 0xE0 ∧ (0x90 : Byte) ≠ 0xF9) := by
  decide

theorem witness_Decode14AndEncode7pairReturnTheirValues : 16383 ≤ 16383 := by decide

theorem witness_PackSplitsEveryByteInOrder : [(0x05 : Byte), 0xFF][1]? = some 0xFF := by decide

theorem witness_UnpackJoinsPairsInOrder :
    [(0x05 : Byte), 0x00, 0x7F, 0x01].length % 2 = 0 ∧ [(0x05 : Byte), 0x00, 0x7F, 0x01][2 * 1]? = some 0x7F ∧
    [(0x05 : Byte), 0x00, 0x7F, 0x01][2 * 1 + 1]? = some 0x01 := by
  decide

theorem witness_DecodeLe7ReturnsTheOrOfShiftedBytes : ∀ b ∈ ([0x00, 0x7F] : List Byte), b.toNat < 128 := by decide

theorem witness_CodecRoundTrips : 16383 ≤ 16383 ∧ (0x7F : Byte).toNat < 128 ∧ (0x00 : Byte).toNat < 128 := by decide

theorem witness_ShortFramesAreWritten :
    State.reset.txUp = true ∧ (15 : Byte).toNat ≤ 15 ∧ (1 : Byte).toNat ≤ 1 := by
  decide

theorem witness_WriteDigitalKeepsSiblingBits :
    State.reset.txUp = true ∧ (127 : Byte).toNat ≤ 127 ∧ (1 : Byte).toNat ≤ 1 := by
  decide

theorem witness_WriteAnalogSendsAndCaches : State.reset.txUp = true ∧ (15 : Byte).toNat ≤ 15 ∧ 16383 ≤ 16383 := by decide

theorem witness_SysexFramesAreWritten : State.reset.txUp = true ∧ 16383 ≤ 16383 := by decide

theorem witness_FailedWriteReportsAndSendsNothing :
    ({ State.reset with txUp := false } : State).txUp = false ∧ (15 : Byte).toNat ≤ 15 ∧ (1 : Byte).toNat ≤ 1 ∧
    (127 : Byte).toNat ≤ 127 := by
  decide

theorem witness_OutOfRangeArgumentsAreRefused :
    127 < (128 : Byte).toNat ∧ 1 < (2 : Byte).toNat ∧ 15 < (16 : Byte).toNat := by
  decide

theorem witness_AnalogFrameReproducesTheMessage :
    State.reset.txUp = true ∧ (0x7F : Byte).toNat < 128 ∧ (0x00 : Byte).toNat < 128 := by
  decide

theorem witness_InProtocolFramesAreReadBackWhole :
    (0xF6 : Byte) ≠ 0xF7 ∧ (∀ b ∈ ([0x00, 0x7F] : List Byte), b.toNat < 128) ∧ (0x7F : Byte) ∈ packByteStream [0xFF] ∧
    (∀ b : Byte, .byte b ∈ [TxField.byte 0x7F, .wide 16384] → b.toNat < 128) := by
  refine ⟨by decide, by decide, by decide, ?_⟩
  intro b hb
  simp at hb
  subst hb
  decide

theorem witness_TransmittedFramesSelectTheirRows :
    (Instr.txWriteDigital 127 1).stage = .tx ∧ State.reset.txUp = true ∧
    ∃ t, exec (.txWriteDigital 127 1) State.reset = .next t :=
  ⟨rfl, rfl, _, rfl⟩

theorem witness_MessageRoundTrip :
    ((Instr.analog 15 0xFF 0xFF).wf = true ∧ (Instr.analog 15 0xFF 0xFF).stage = .shortFirst) ∧
    ((Instr.sysexOther 0xF0 [0x79]).wf = true ∧ (Instr.sysexOther 0xF0 [0x79]).stage = .sysexSubtype) := by
  decide

theorem witness_DecodedMessageIsItsBytes :
    decodeMessage [0xF0, 0xF7, 0x05] = .ok (.sysexEmpty, [0x05]) ∧
    decodeMessage [0xF7, 0xF0, 0xF7] = .ok (.shortF7 0xF0 0xF7, []) :=
  ⟨rfl, rfl⟩

theorem witness_SymbolRowsRoundTrip :
    (Instr.sysexOverflow 0x01).wf = true ∧ (Instr.sysexOverflow 0x01).phase = some (.inSysex true) := by
  decide

/-- Two different rows of one stage that no byte selects together, and a row with itself. -/
theorem witness_DecoderFollowsTheOpcodeTable :
    (0x91 : Byte) ≠ 0xF0 ∧
    ∃ r : Row, r ∈ opcodeRows ∧ r.stage = .shortFirst ∧ r.dflt = false ∧ r.cond = none ∧ (0x91 : Byte) &&& r.mask = r.bits :=
  ⟨by decide, ⟨.shortFirst, 0x90, 0xF0, none, false, "DIGITAL"⟩, by decide, rfl, rfl, rfl, by decide⟩

theorem witness_EveryStepKeepsTheInvariant :
    ∃ t, State.Inv (withEnv .idle [.sym .err]) ∧ step (withEnv .idle [.sym .err]) = .next t ∧ t.out ≠ [] :=
  ⟨_, rfl, rfl, by decide⟩

theorem witness_StreamOfMessagesIsDeliveredInOrder :
    ∃ (s : State) (ms : List WireMessage), s.rs = .idle ∧ s.cfg.sysexMax = none ∧ ms.length = 2 ∧ (∀ m ∈ ms, m.Ok) ∧
      s.env = presents ((ms.flatMap WireMessage.bytes).map .byte) ++ [] := by
  refine ⟨withEnv .idle (presents ([0xF0, 0x6C, 0xF7, 0xF7, 0xF0, 0xF7].map .byte)),
    [.sysex [0x6C], .short 0xF7 0xF0 0xF7], rfl, rfl, rfl, ?_, rfl⟩
  intro m hm
  simp only [List.mem_cons, List.not_mem_nil, or_false] at hm
  rcases hm with rfl | rfl
  · intro b hb
    simp only [List.mem_cons, List.not_mem_nil, or_false] at hb
    subst hb
    decide
  · show (0xF7 : Byte) ≠ 0xF0
    decide

theorem witness_IncompleteMessageWaits :
    ((withEnv .idle [.sym (.byte 0xF0), .sym (.byte 0x6C)]).rs = .idle ∧ State.reset.cfg.sysexMax = none ∧
      (∀ b ∈ ([0x6C] : List Byte), b ≠ 0xF7) ∧
      (withEnv .idle [.sym (.byte 0xF0), .sym (.byte 0x6C)]).env = presents ([0xF0, 0x6C].map .byte) ++ []) ∧
    ((0xF7 : Byte) ≠ 0xF0 ∧ (withEnv .idle [.sym (.byte 0xF7)]).env = presents [.byte 0xF7] ++ [] ∧
      (withEnv .idle [.sym (.byte 0xF7), .sym (.byte 0xF0)]).env = presents [.byte 0xF7, .byte 0xF0] ++ []) := by
  decide

theorem witness_HaltedReaderNeverMoves :
    (withEnv (.halted .accOverflow) [.sym .err]).rs = .halted .accOverflow ∧
    Stimulus.rst ∉ (withEnv (.halted .accOverflow) [.sym .err]).env ∧
    ∃ t, runFor 1 (withEnv (.halted .accOverflow) [.sym .err]) = .next t :=
  ⟨rfl, by decide, _, rfl⟩

theorem witness_FatalEventIsOnceAndLast :
    ∃ t, runFor 1 { State.reset with cfg := Params.default, env := [.sym .err] } = .next t ∧
      Event.fatal .transportError ∈ t.out :=
  ⟨_, rfl, by decide⟩

theorem witness_OneEventAtMostPerSymbol :
    ((withEnv .idle [.sym .err]).phase = some .idle ∧ ∃ t, step (withEnv .idle [.sym .err]) = .next t) ∧
    ((withEnv (.halted .accOverflow) [.sym .err]).phase = none ∧
      (withEnv (.halted .accOverflow) [.sym .err]).env.head? ≠ some .rst ∧
      ∃ t, step (withEnv (.halted .accOverflow) [.sym .err]) = .next t) :=
  ⟨⟨rfl, _, rfl⟩, rfl, by decide, _, rfl⟩

theorem witness_NoByteMakesTheReaderFail :
    ∃ s : State, s.running ∧ s.cfg.sysexMax = none ∧ s.env = presents ([0xF7, 0xFF].map .byte) ++ [] :=
  ⟨withEnv .idle (presents ([0xF7, 0xFF].map .byte)), rfl, rfl, rfl⟩

theorem witness_StepNeverFaults : ∀ i, State.reset.env.head? ≠ some (.call i) := by
  intro i h
  cases h

theorem witness_ReaderIsDeterminedByItsSymbols :
    ∃ s₁ s₂ t₁ t₂ : State, observed s₁ = observed s₂ ∧ s₁.cfg = s₂.cfg ∧ symbolsOf s₁.env = symbolsOf s₂.env ∧
      s₁.env ≠ s₂.env ∧ .rst ∉ s₁.env ∧ .rst ∉ s₂.env ∧ runFor s₁.env.length s₁ = .next t₁ ∧
      runFor s₂.env.length s₂ = .next t₂ :=
  ⟨withEnv .idle [.sym .err], withEnv .idle [.call .txCapsQuery, .sym .err], _, _, rfl, rfl, rfl, by decide, by decide,
    by decide, rfl, rfl⟩

theorem witness_CallsLeaveTheReaderAlone :
    (isCall (.decode14 0 0) = true ∧ (Instr.decode14 0 0).stage = .codec ∧
      ∃ t, exec (.decode14 0 0) State.reset = .next t) ∧
    (isCall .sysexStart = false ∧ ∃ t, exec .sysexStart State.reset = .next t) :=
  ⟨⟨rfl, rfl, _, rfl⟩, rfl, _, rfl⟩

theorem witness_TablesArePopulatedOnce :
    ∃ s t : State, s.env.head? ≠ some .rst ∧ step s = .next t ∧ s.board.captable = some [[]] ∧
      s.board.amap = some [.unmapped] :=
  ⟨{ State.reset with board := { Board.reset with captable := some [[]], amap := some [.unmapped] } }, _, by decide, rfl,
    rfl, rfl⟩

/-- Every kind of item that means a message, at the bounds of its values. -/
theorem witness_WrittenItemsAreReadAsMeant :
    (∀ i : Item, (withEnv .idle (presents i.symbols)).rs = .idle ∧ (withEnv .idle (presents i.symbols)).cfg.sysexMax = none ∧
      (withEnv .idle (presents i.symbols)).env = presents i.symbols ++ []) ∧
    ∀ i ∈ [Item.analog 15 16383, .version 0xFF 0xF7, .short 0xF1 0xF0 0xF7, .sysex 0xF6 [0xF8], .firmware 0xF6 0xF8 [16383],
        .caps [[(0x7E, 0xF6), (0x80, 0xF8)], []], .amap [0x7F, 0xF6], .pinState 0xF6 0xF8 16384, .i2cReply 16383 0 [0xFF]],
      itemOk i ∧ (itemMeans i).isSome = true := by
  refine ⟨fun _ => ⟨rfl, rfl, (List.append_nil _).symm⟩, ?_⟩
  simp [itemOk, itemMeans]
  rintro a b (⟨rfl, rfl⟩ | ⟨rfl, rfl⟩) <;> decide

theorem witness_PlacedInstructionRunsNext :
    isCall (.encode7pair 0) = true ∧ shortRow 0xF1 0 0 = some (.shortF1 0 0) ∧ shortRow 0x0F 0 0 = some (.short00 15 0 0) ∧
    ((Instr.sysexData 0xF6).wf = true ∧ (Instr.sysexData 0xF6).phase = some (.inSysex false)) ∧
    ((Instr.sysexOverflow 0xF8).wf = true ∧ (Instr.sysexOverflow 0xF8).phase = some (.inSysex true)) ∧
    ((Instr.shortStart 0xF1).wf = true ∧ (Instr.shortStart 0xF1).phase = State.reset.phase) := by
  decide

end Sys2Proof.Tests
end

section
/-!
PROOFS. The reader as a transducer of symbols (R9): a function of the parameters, the observed part of the state and the
symbols alone, and the statement that follows from it.
-/

open Sys2Proof Sys2Proof.Machine Sys2Proof.Claims

namespace Sys2Proof.Proofs

/-- What one presented symbol makes of the observed part of the state: the cases of R100 to R112 with nothing else in
sight. `exec_decodeSymbol_observed` and `readSymbol_halted` tie it to the model. -/
def readSymbol (cfg : Params) : RState × Nat × List Event → Symbol → RState × Nat × List Event
  | (.halted c, pos, out), _ => (.halted c, pos, out)
  | (.idle, pos, out), .err => (.halted .transportError, pos + 1, out ++ [.fatal .transportError])
  | (.idle, pos, out), .byte b =>
    if b = Wire.sysexStart then (.inSysex [], pos + 1, out) else (.inShort b (cmdOf b) .two, pos + 1, out)
  | (.inSysex _, pos, out), .err => (.halted .malformedFrame, pos + 1, out ++ [.fatal .malformedFrame])
  | (.inSysex acc, pos, out), .byte b =>
    if b = Wire.sysexEnd then (.idle, pos + 1, out ++ [.msg (decodeSysex acc)])
    else if full cfg acc then (.halted .accOverflow, pos + 1, out ++ [.fatal .accOverflow])
    else (.inSysex (acc ++ [b]), pos + 1, out)
  | (.inShort _ _ _, pos, out), .err => (.halted .malformedFrame, pos + 1, out ++ [.fatal .malformedFrame])
  | (.inShort first cmd .two, pos, out), .byte b => (.inShort first cmd (.one b), pos + 1, out)
  | (.inShort first cmd (.one d0), pos, out), .byte b =>
    (.idle, pos + 1, out ++ [.msg (decodeShort first cmd d0 b)])

/-- The observed part that the queued symbols lead to, whatever else the queue holds. -/
def foretold (s : State) : RState × Nat × List Event := (symbolsOf s.env).foldl (readSymbol s.cfg) (observed s)

@[simp] theorem symbolsOf_sym (x : Symbol) (e : List Stimulus) : symbolsOf (.sym x :: e) = x :: symbolsOf e := rfl
@[simp] theorem symbolsOf_call (i : Instr) (e : List Stimulus) : symbolsOf (.call i :: e) = symbolsOf e := rfl
@[simp] theorem symbolsOf_txLine (up : Bool) (e : List Stimulus) : symbolsOf (.txLine up :: e) = symbolsOf e := rfl

/-- States that share the parameters, the queued symbols and the observed part lead to the same. -/
theorem foretold_congr {s t : State} (hobs : observed t = observed s) (hcfg : t.cfg = s.cfg)
    (hsym : symbolsOf t.env = symbolsOf s.env) : foretold t = foretold s := by
  simp only [foretold, hobs, hcfg, hsym]

/-- Reading the queue's first symbol keeps what the queue leads to. -/
theorem foretold_of_read {s t : State} {x : Symbol} {rest : List Stimulus} (he : s.env = .sym x :: rest)
    (hobs : observed t = readSymbol s.cfg (observed s) x) (hcfg : t.cfg = s.cfg) (henv : t.env = rest) :
    foretold t = foretold s := by
  simp [foretold, he, hobs, hcfg, henv]

/-- A reader with no phase ignores a symbol (R112). -/
theorem readSymbol_halted {s : State} (hp : s.phase = none) (x : Symbol) :
    readSymbol s.cfg (observed s) x = observed s := by
  obtain ⟨c, hr⟩ := phase_eq_none.1 hp
  simp [observed, hr, readSymbol]

/-- The row that a consumed symbol selects does to the observed part what `readSymbol` says. -/
theorem exec_decodeSymbol_observed {s t : State} {x : Symbol} {ph : Phase} {rest : List Stimulus}
    (hp : s.phase = some ph) (h : exec (decodeSymbol ph x) { s with env := rest, pos := s.pos + 1 } = .next t) :
    observed t = readSymbol s.cfg (observed s) x := by
  obtain ⟨rs, pos, out, board, tx, ret, cfg, env, txUp, draws⟩ := s
  cases rs with
  | idle =>
    cases hp
    cases x with
    | err => cases h; rfl
    | byte b =>
      by_cases hb : b = Wire.sysexStart
      · simp only [decodeSymbol, hb, if_true] at h
        cases h
        simp [observed, readSymbol, hb]
      · simp only [decodeSymbol, hb, if_false, exec, execShortStart] at h
        cases h
        simp [observed, readSymbol, hb]
  | inSysex acc =>
    cases hp
    cases x with
    | err => cases h; rfl
    | byte b =>
      by_cases hb : b = Wire.sysexEnd
      · simp only [decodeSymbol, hb, if_true] at h
        cases h
        simp [observed, readSymbol, hb]
      · cases hf : full cfg acc with
        | true =>
          simp only [decodeSymbol, hb, hf, if_true, if_false, exec, execSysexOverflow, ne_eq, not_false_eq_true,
            and_self] at h
          cases h
          simp [observed, readSymbol, hb, hf]
        | false =>
          simp only [decodeSymbol, hb, hf, if_false, Bool.false_eq_true, exec, execSysexData, or_self] at h
          cases h
          simp [observed, readSymbol, hb, hf]
  | inShort first cmd cnt =>
    cases cnt with
    | two => cases hp; cases x <;> cases h <;> rfl
    | one d0 => cases hp; cases x <;> cases h <;> rfl
  | halted c => cases hp

/-- No instruction touches the parameters or the environment's queue. -/
theorem exec_keeps_cfg_env {i : Instr} {s t : State} (h : exec i s = .next t) : t.cfg = s.cfg ∧ t.env = s.env := by
  cases exec_effect h <;> exact ⟨rfl, rfl⟩

/-- A call does not touch the reader (R41, R197). -/
theorem exec_call_observed {i : Instr} {s t : State} (hi : isCall i = true) (h : exec i s = .next t) :
    observed t = observed s := by
  cases exec_effect h with
  | call => rfl
  | startSysex hc | startShort _ hc | append _ _ hc | store _ _ _ hc | deliver _ hc | fatal _ hc =>
    rw [hi] at hc
    cases hc

/-- A step but `rst` takes the queue's first item, and what the queued symbols lead to stays the same. -/
theorem step_keeps_foretold {s t : State} (hr : .rst ∉ s.env) (h : step s = .next t) :
    t.env = s.env.tail ∧ foretold t = foretold s := by
  obtain ⟨he, rfl⟩ | ⟨x, rest, ph, he, hp, hx⟩ | ⟨x, rest, he, hp, rfl⟩ | ⟨i, rest, he, hi, hx⟩ | ⟨up, rest, he, rfl⟩ |
    ⟨rest, he, -⟩ := step_next h
  · exact ⟨by rw [he, List.tail_nil], rfl⟩
  · obtain ⟨hcfg, henv⟩ := exec_keeps_cfg_env hx
    exact ⟨by rw [he, henv, List.tail_cons], foretold_of_read he (exec_decodeSymbol_observed hp hx) hcfg henv⟩
  · exact ⟨by rw [he, List.tail_cons], foretold_of_read he (readSymbol_halted hp x).symm rfl rfl⟩
  · obtain ⟨hcfg, henv⟩ := exec_keeps_cfg_env hx
    have hobs := exec_call_observed hi hx
    exact ⟨by rw [he, henv, List.tail_cons], foretold_congr hobs hcfg (by rw [he, henv, symbolsOf_call])⟩
  · exact ⟨by rw [he, List.tail_cons], foretold_congr rfl rfl (by rw [he, symbolsOf_txLine])⟩
  · simp [he] at hr

/-- A run to the end of a queue without `rst` ends where the queue's symbols lead. -/
theorem runFor_env_observed {s t : State} (hr : .rst ∉ s.env) (h : runFor s.env.length s = .next t) :
    observed t = foretold s := by
  induction hn : s.env.length generalizing s with
  | zero =>
    rw [hn] at h
    cases h
    simp [foretold, List.length_eq_zero_iff.1 hn, symbolsOf]
  | succ n ih =>
    rw [hn] at h
    obtain ⟨u, hu, hrun⟩ := runFor_succ_next h
    obtain ⟨henv, hkeep⟩ := step_keeps_foretold hr hu
    have hlen : u.env.length = n := by simp [henv, hn]
    have hru : .rst ∉ u.env := fun hm => hr (List.mem_of_mem_tail (henv ▸ hm))
    rw [← hkeep]
    exact ih hru (hlen.symm ▸ hrun) hlen

/-- Settles O54: each run ends in what its symbols foretell, a function of what the two states share. -/
theorem readerIsDeterminedByItsSymbols : Obligations.ReaderIsDeterminedByItsSymbols := by
  unfold Obligations.ReaderIsDeterminedByItsSymbols
  intro s₁ s₂ t₁ t₂ hobs hcfg hsym hr₁ hr₂ h₁ h₂
  calc observed t₁ = foretold s₁ := runFor_env_observed hr₁ h₁
    _ = foretold s₂ := foretold_congr hobs hcfg hsym
    _ = observed t₂ := (runFor_env_observed hr₂ h₂).symm

end Sys2Proof.Proofs
end

section
/-!
PROOFS. The state after reset (R25, R171), the invariant of a reader before its first message, and the flat view of the
reader state (R11, R18).
-/

open Sys2Proof Sys2Proof.Machine Sys2Proof.Claims

namespace Sys2Proof.Proofs

@[simp] theorem port_reset (p : Nibble) : Board.reset.port p = 0 := Vector.getElem_replicate _

@[simp] theorem analog_reset (p : Nibble) : Board.reset.analog p = 0 := Vector.getElem_replicate _

/-- Settles O1: the record's fields as written, and the two caches by their values at every index. -/
theorem resetLeavesReaderIdleAndTablesEmpty : Obligations.ResetLeavesReaderIdleAndTablesEmpty := by
  unfold Obligations.ResetLeavesReaderIdleAndTablesEmpty
  have hcaches : ∀ p : Nibble, State.reset.board.port p = 0 ∧ State.reset.board.analog p = 0 :=
    fun p => ⟨port_reset p, analog_reset p⟩
  exact ⟨rfl, rfl, rfl, rfl, rfl, rfl, rfl, hcaches, rfl, rfl⟩

/-- An idle reader that has emitted nothing meets the invariant wherever its pin mode table does: every other clause is
about a message begun or an event emitted. -/
theorem inv_of_idle_of_out_nil {s : State} (hrs : s.rs = .idle) (hout : s.out = [])
    (hpins : pinModesOk s.board.pinModes = true) : State.Inv s := by
  have hreader : s.rs.ok s.cfg = true := by rw [hrs]; rfl
  have hevents : outOk s.rs s.out = true := by rw [hrs, hout]; rfl
  have hcount : s.out.length ≤ s.pos := by rw [hout]; exact Nat.zero_le _
  simp [State.Inv, State.inv, hreader, hevents, hpins, hcount]

/-- Settles O45: after reset the reader is idle, the output stream and the pin mode table are empty. -/
theorem resetMeetsTheInvariant : Obligations.ResetMeetsTheInvariant := by
  unfold Obligations.ResetMeetsTheInvariant
  intro cfg e
  exact inv_of_idle_of_out_nil rfl rfl rfl

/-- The code 3 is the halted reader's alone. -/
theorem st_eq_three {r : RState} : r.st = 3 ↔ ∃ c, r = .halted c := by
  cases r with
  | idle | inSysex | inShort => simp [RState.st]
  | halted c => exact ⟨fun _ => ⟨c, rfl⟩, fun _ => rfl⟩

theorem isHalted_iff {s : State} : s.isHalted = true ↔ ∃ c, s.rs = .halted c :=
  decide_eq_true_iff.trans st_eq_three

/-- Settles O59: the codes by their definitions, and both readings of *halted* by the cause that the reader holds. -/
theorem statusViewOfTheReader : Obligations.StatusViewOfTheReader := by
  unfold Obligations.StatusViewOfTheReader
  have hhalted : ∀ s : State, (s.isHalted = true ↔ ∃ c, s.rs = .halted c) ∧ (s.phase = none ↔ s.isHalted = true) :=
    fun s => ⟨isHalted_iff, phase_eq_none.trans isHalted_iff.symm⟩
  exact ⟨rfl, fun _ => rfl, fun _ _ _ => rfl, fun _ => rfl, rfl, fun _ => rfl, rfl, rfl, rfl, hhalted⟩

end Sys2Proof.Proofs
end

section
/-!
PROOFS. The frame of calls and of the other rows (R30, R41, R180, R197).
-/

open Sys2Proof Sys2Proof.Machine Sys2Proof.Claims

namespace Sys2Proof.Proofs

/-- A codec function returns a value to its caller, and that is all it does. -/
theorem exec_codec_returns {i : Instr} (hi : i.stage = .codec) (s : State) : ∃ r, exec i s = .next (s.returns r) :=
  match i, hi with
  | .decode14 _ _, _ => ⟨_, rfl⟩
  | .encode7pair _, _ => ⟨_, rfl⟩
  | .packByteStream _, _ => ⟨_, rfl⟩
  | .unpackByteStream _, _ => ⟨_, rfl⟩
  | .decodeLe7 _, _ => ⟨_, rfl⟩
  | .portOfBitOf _, _ => ⟨_, rfl⟩

theorem exec_codec_frame {i : Instr} {s t : State} (hi : i.stage = .codec) (h : exec i s = .next t) :
    t.board = s.board ∧ t.tx = s.tx ∧ t.draws = s.draws := by
  obtain ⟨r, hr⟩ := exec_codec_returns hi s
  cases hr.symm.trans h
  exact ⟨rfl, rfl, rfl⟩

theorem exec_keeps_txUp {i : Instr} {s t : State} (h : exec i s = .next t) : t.txUp = s.txUp := by
  cases exec_effect h <;> rfl

/-- Of the tables a call can write the two caches alone. -/
theorem exec_call_tables {i : Instr} {s t : State} (hi : isCall i = true) (h : exec i s = .next t) :
    t.board.captable = s.board.captable ∧ t.board.amap = s.board.amap ∧ t.board.protover = s.board.protover ∧
      t.board.fwver = s.board.fwver ∧ t.board.pinModes = s.board.pinModes := by
  cases exec_effect h with
  | call _ _ _ _ _ hb => exact hb
  | startSysex hc | startShort _ hc | append _ _ hc | store _ _ _ hc | deliver _ hc | fatal _ hc =>
    rw [hi] at hc
    cases hc

/-- A row of the reader or of the decoder touches no part of the transmit side. -/
theorem exec_row_frame {i : Instr} {s t : State} (hi : isCall i = false) (h : exec i s = .next t) :
    t.pos = s.pos ∧ t.tx = s.tx ∧ t.ret = s.ret ∧ t.draws = s.draws ∧ t.board.portcache = s.board.portcache ∧
      t.board.pinModes = s.board.pinModes := by
  cases exec_effect h with
  | startSysex | startShort | append | store | fatal => exact ⟨rfl, rfl, rfl, rfl, rfl, rfl⟩
  | deliver => simp
  | call _ _ _ _ hc =>
    rw [hi] at hc
    cases hc

/-- Settles O55: a call's clause and a row's clause, each from what `exec_effect` leaves for it. -/
theorem callsLeaveTheReaderAlone : Obligations.CallsLeaveTheReaderAlone := by
  unfold Obligations.CallsLeaveTheReaderAlone
  intro i s t h
  obtain ⟨hcfg, henv⟩ := exec_keeps_cfg_env h
  have hup := exec_keeps_txUp h
  constructor
  · intro hi
    obtain ⟨hcaps, hamap, hproto, hfw, hpins⟩ := exec_call_tables hi h
    exact ⟨exec_call_observed hi h, hcfg, henv, hup, hcaps, hamap, hproto, hfw, hpins,
      fun hcodec => exec_codec_frame hcodec h⟩
  · intro hi
    obtain ⟨hpos, htx, hret, hdraws, hport, hpins⟩ := exec_row_frame hi h
    exact ⟨hpos, htx, hret, hcfg, henv, hup, hdraws, hport, hpins⟩

end Sys2Proof.Proofs
end

section
/-!
PROOFS. One presented byte in each state of the reader, a whole message as a run of such steps, and a stream as a run of
messages (R100 to R106, R115).
-/

open Sys2Proof Sys2Proof.Machine Sys2Proof.Claims

namespace Sys2Proof.Proofs

@[simp] theorem presents_nil : presents [] = [] := rfl

@[simp] theorem presents_cons (x : Symbol) (xs : List Symbol) : presents (x :: xs) = .sym x :: presents xs := rfl

@[simp] theorem presents_append (xs ys : List Symbol) : presents (xs ++ ys) = presents xs ++ presents ys :=
  List.map_append

/-- An unbounded accumulator is never full. -/
theorem full_of_unbounded {cfg : Params} (h : cfg.sysexMax = none) (acc : List Byte) : full cfg acc = false := by
  simp [full, h]

section

/-! ## One byte -/

variable {s : State} {rest tail : List Stimulus}

theorem step_startMarker (hrs : s.rs = .idle) (he : s.env = .sym (.byte 0xF0) :: rest) :
    step s = .next { s with rs := .inSysex [], pos := s.pos + 1, env := rest } := by
  rw [step_sym he (ph := .idle) (by simp [State.phase, hrs])]
  simp [decodeSymbol, Wire.sysexStart, exec, execSysexStart, hrs]

theorem step_shortStart {b : Byte} (hrs : s.rs = .idle) (hb : b ≠ 0xF0) (he : s.env = .sym (.byte b) :: rest) :
    step s = .next { s with rs := .inShort b (cmdOf b) .two, pos := s.pos + 1, env := rest } := by
  replace hb : b ≠ Wire.sysexStart := hb
  rw [step_sym he (ph := .idle) (by simp [State.phase, hrs])]
  simp [decodeSymbol, exec, execShortStart, hrs, hb]

theorem step_sysexData {acc : List Byte} {b : Byte} (hrs : s.rs = .inSysex acc) (hf : full s.cfg acc = false)
    (hb : b ≠ 0xF7) (he : s.env = .sym (.byte b) :: rest) :
    step s = .next { s with rs := .inSysex (acc ++ [b]), pos := s.pos + 1, env := rest } := by
  replace hb : b ≠ Wire.sysexEnd := hb
  rw [step_sym he (ph := .inSysex false) (by simp [State.phase, hrs, hf])]
  simp [decodeSymbol, exec, execSysexData, hrs, hb, hf]

/-- The end marker completes the message, whether or not the accumulator is full. -/
theorem step_endMarker {acc : List Byte} (hrs : s.rs = .inSysex acc) (he : s.env = .sym (.byte 0xF7) :: rest) :
    step s = .next (({ s with pos := s.pos + 1, env := rest } : State).deliver (decodeSysex acc)) := by
  rw [step_sym he (ph := .inSysex (full s.cfg acc)) (by simp [State.phase, hrs])]
  simp [decodeSymbol, Wire.sysexEnd, exec, execSysexEnd, hrs]

theorem step_shortData0 {first cmd b : Byte} (hrs : s.rs = .inShort first cmd .two)
    (he : s.env = .sym (.byte b) :: rest) :
    step s = .next { s with rs := .inShort first cmd (.one b), pos := s.pos + 1, env := rest } := by
  rw [step_sym he (ph := .inShort false) (by simp [State.phase, hrs])]
  simp [decodeSymbol, exec, execShortData0, hrs]

theorem step_shortData1 {first cmd d0 b : Byte} (hrs : s.rs = .inShort first cmd (.one d0))
    (he : s.env = .sym (.byte b) :: rest) :
    step s = .next (({ s with pos := s.pos + 1, env := rest } : State).deliver (decodeShort first cmd d0 b)) := by
  rw [step_sym he (ph := .inShort true) (by simp [State.phase, hrs])]
  simp [decodeSymbol, exec, execShortData1, hrs]

/-! ## One message -/

/-- Bytes that are no end marker are accumulated in order, as many as there are. -/
theorem runFor_sysexBody {acc bs : List Byte} (hrs : s.rs = .inSysex acc) (hmax : s.cfg.sysexMax = none)
    (hbs : ∀ b ∈ bs, b ≠ 0xF7) (he : s.env = presents (bs.map .byte) ++ tail) :
    runFor bs.length s = .next { s with rs := .inSysex (acc ++ bs), pos := s.pos + bs.length, env := tail } := by
  induction bs generalizing s acc with
  | nil =>
    replace he : s.env = tail := he
    simp [← hrs, ← he]
  | cons b bs ih =>
    obtain ⟨hb, hbs⟩ := List.forall_mem_cons.1 hbs
    have hstep := step_sysexData hrs (full_of_unbounded hmax acc) hb he
    have hrest := ih (s := { s with
      rs := .inSysex (acc ++ [b]), pos := s.pos + 1, env := presents (bs.map .byte) ++ tail }) rfl hmax hbs rfl
    refine (runFor_next hstep).trans (hrest.trans ?_)
    simp [Nat.add_assoc, Nat.add_comm 1]

/-- The state after `n` consumed symbols that completed these messages, with `tail` left of the queue: the right side of
the statements about streams. -/
def received (s : State) (n : Nat) (ms : List DecodedMessage) (tail : List Stimulus) : State :=
  { s with
    pos := s.pos + n
    out := s.out ++ ms.map .msg
    board := ms.foldl (fun b m => b.update s.cfg m) s.board
    env := tail }

theorem received_nil (he : s.env = tail) : received s 0 [] tail = s := by simp [received, ← he]

/-- Receiving in two parts is receiving both in order. -/
theorem received_received (j k : Nat) (ms ms' : List DecodedMessage) (tail' : List Stimulus) :
    received (received s j ms tail') k ms' tail = received s (j + k) (ms ++ ms') tail := by
  simp [received, Nat.add_assoc]

theorem runFor_shortMessage {first d0 d1 : Byte} (hrs : s.rs = .idle) (hf : first ≠ 0xF0)
    (he : s.env = presents ([first, d0, d1].map .byte) ++ tail) :
    runFor 3 s = .next (received s 3 [decodeShort first (cmdOf first) d0 d1] tail) := by
  rw [runFor_next (step_shortStart hrs hf he), runFor_next (step_shortData0 rfl rfl),
    runFor_next (step_shortData1 rfl rfl)]
  simp [State.deliver, State.emit, received, hrs]

theorem runFor_sysexMessage {acc : List Byte} (hrs : s.rs = .idle) (hmax : s.cfg.sysexMax = none)
    (hacc : ∀ b ∈ acc, b ≠ 0xF7) (he : s.env = presents ((0xF0 :: acc ++ [0xF7]).map .byte) ++ tail) :
    runFor (acc.length + 2) s = .next (received s (acc.length + 2) [decodeSysex acc] tail) := by
  rw [List.map_append, presents_append, List.append_assoc] at he
  have hbody := runFor_sysexBody (s := { s with
    rs := .inSysex [], pos := s.pos + 1, env := presents (acc.map .byte) ++ (.sym (.byte 0xF7) :: tail) }) rfl hmax hacc rfl
  refine (runFor_next (step_startMarker hrs he)).trans ((runFor_add 1 hbody).trans ?_)
  rw [runFor_next (step_endMarker rfl rfl)]
  simp [State.deliver, State.emit, received, hrs, Nat.add_assoc, Nat.add_comm 1]

/-- A complete message is consumed byte by byte, delivered once, and leaves the reader idle. -/
theorem runFor_wireMessage {m : WireMessage} (hrs : s.rs = .idle) (hmax : s.cfg.sysexMax = none) (hm : m.Ok)
    (he : s.env = presents (m.bytes.map .byte) ++ tail) :
    runFor m.bytes.length s = .next (received s m.bytes.length [m.decoded] tail) := by
  cases m with
  | short first d0 d1 => exact runFor_shortMessage hrs hm he
  | sysex acc =>
    have hlen : (WireMessage.sysex acc).bytes.length = acc.length + 2 := by simp [WireMessage.bytes]
    rw [hlen]
    exact runFor_sysexMessage hrs hmax hm he

/-! ## A stream -/

theorem runFor_stream {ms : List WireMessage} (hrs : s.rs = .idle) (hmax : s.cfg.sysexMax = none)
    (hms : ∀ m ∈ ms, m.Ok) (he : s.env = presents ((ms.flatMap WireMessage.bytes).map .byte) ++ tail) :
    runFor (ms.flatMap WireMessage.bytes).length s =
      .next (received s (ms.flatMap WireMessage.bytes).length (ms.map WireMessage.decoded) tail) := by
  induction ms generalizing s with
  | nil => exact congrArg _ (received_nil he).symm
  | cons m ms ih =>
    obtain ⟨hm, hms⟩ := List.forall_mem_cons.1 hms
    rw [List.flatMap_cons, List.map_append, presents_append, List.append_assoc] at he
    rw [List.flatMap_cons, List.length_append]
    have hrest := ih (s := received s m.bytes.length [m.decoded]
      (presents ((ms.flatMap WireMessage.bytes).map .byte) ++ tail)) hrs hmax hms rfl
    rw [runFor_add _ (runFor_wireMessage hrs hmax hm he), hrest, received_received, List.map_cons, List.singleton_append]

end

/-- Settles O47: the run of a stream, by induction on its messages. -/
theorem streamOfMessagesIsDeliveredInOrder : Obligations.StreamOfMessagesIsDeliveredInOrder := by
  unfold Obligations.StreamOfMessagesIsDeliveredInOrder
  intro s ms tail hrs hmax hms he
  rw [runFor_stream hrs hmax hms he]
  simp [received, List.foldl_map]

end Sys2Proof.Proofs
end

section
/-!
PROOFS. A completed message and its bytes are the same thing (R50 to R53, R115): what the two forms of a row look like on
the wire, and what `decodeMessage` makes of them in both directions.
-/

open Sys2Proof Sys2Proof.Machine Sys2Proof.Claims

namespace Sys2Proof.Proofs

/-! ## The two forms of a message row -/

/-- A channel command is never the start marker: their high nibbles differ. -/
theorem ofNibbles_ne_sysexStart {hi : Nibble} (h : hi ≠ 0xF) (lo : Nibble) : Byte.ofNibbles hi lo ≠ Wire.sysexStart :=
  fun e => h ((hiNibble_ofNibbles hi lo).symm.trans (congrArg hiNibble e))

/-- A short message's row is the row of its own three bytes (R51, R56). -/
theorem shortRow_of_stage {i : Instr} (hs : i.stage = .shortFirst) :
    ∃ first d0 d1, messageBytes i = [first, d0, d1] ∧ first ≠ Wire.sysexStart ∧ shortRow first d0 d1 = some i := by
  cases i with
  | short00 chan d0 d1 | short10 chan d0 d1 | short20 chan d0 d1 | short30 chan d0 d1 | short40 chan d0 d1
  | short50 chan d0 d1 | short60 chan d0 d1 | short70 chan d0 d1 | short80 chan d0 d1 | digital chan d0 d1
  | shortA0 chan d0 d1 | shortB0 chan d0 d1 | reportAnalog chan d0 d1 | reportDigital chan d0 d1 | analog chan d0 d1 =>
    exact ⟨_, d0, d1, rfl, ofNibbles_ne_sysexStart (by decide) chan, by simp [shortRow]⟩
  | shortF1 d0 d1 | shortF2 d0 d1 | shortF3 d0 d1 | pinMode d0 d1 | shortF5 d0 d1 | shortF6 d0 d1 | shortF7 d0 d1
  | shortF8 d0 d1 | version d0 d1 | shortFA d0 d1 | shortFB d0 d1 | shortFC d0 d1 | shortFD d0 d1 | shortFE d0 d1
  | shortFF d0 d1 => exact ⟨_, d0, d1, rfl, by decide, rfl⟩
  | _ => cases hs

/-- A sysex message's row is the row of the bytes between its markers, none of them an end marker (R52, R58). -/
theorem sysexRow_of_stage {i : Instr} (hw : i.wf = true) (hs : i.stage = .sysexSubtype) :
    ∃ acc, messageBytes i = sysexBytes acc ∧ bodyOk acc = true ∧ sysexRow acc = i := by
  cases i with
  | firmware p | caps p | amap p | pinState p | i2cReply p | sysexAmapQuery p | sysexCapsQuery p | sysexPinStateQuery p
  | sysexI2cRequest p | sysexI2cConfig p | sysexSamplingInterval p => exact ⟨_ :: p, rfl, hw, rfl⟩
  | sysexOther sub p =>
    simp only [Instr.wf, Bool.and_eq_true, decide_eq_true_eq] at hw
    obtain ⟨⟨hnamed, hsub⟩, hp⟩ := hw
    have hother : sysexRow (sub :: p) = .sysexOther sub p := by
      simp only [Wire.namedSubtypes, List.mem_cons, List.not_mem_nil, or_false, not_or] at hnamed
      simp [sysexRow, hnamed]
    exact ⟨sub :: p, rfl, by simp [hsub, hp], hother⟩
  | sysexEmpty => exact ⟨[], rfl, rfl, rfl⟩
  | _ => cases hs

/-! ## The first message of a byte list -/

theorem decodeMessage_short {first d0 d1 : Byte} {i : Instr} (hf : first ≠ Wire.sysexStart)
    (hi : shortRow first d0 d1 = some i) (rest : List Byte) :
    decodeMessage (first :: d0 :: d1 :: rest) = .ok (i, rest) := by
  simp [decodeMessage, hf, hi]

theorem decodeMessage_sysex {acc : List Byte} (hacc : bodyOk acc = true) (rest : List Byte) :
    decodeMessage (sysexBytes acc ++ rest) = .ok (sysexRow acc, rest) := by
  simp [sysexBytes, decodeMessage, splitAtEnd_append hacc]

/-- What is decoded was cut from the front of the list in one of the two forms. -/
theorem decodeMessage_eq_ok {bs rest : List Byte} {i : Instr} (h : decodeMessage bs = .ok (i, rest)) :
    (∃ acc, bs = sysexBytes acc ++ rest ∧ bodyOk acc = true ∧ i = sysexRow acc) ∨
    ∃ first d0 d1, bs = [first, d0, d1] ++ rest ∧ first ≠ Wire.sysexStart ∧ shortRow first d0 d1 = some i := by
  match bs with
  | [] => cases h
  | b :: bs =>
    by_cases hb : b = Wire.sysexStart
    · cases hsplit : splitAtEnd bs with
      | none => simp [decodeMessage, hb, hsplit] at h
      | some cut =>
        obtain ⟨acc, tail⟩ := cut
        obtain ⟨hbs, hacc⟩ := splitAtEnd_eq_some hsplit
        simp only [decodeMessage, hb, hsplit, if_true] at h
        cases h
        exact .inl ⟨acc, by simp [sysexBytes, hb, hbs], hacc, rfl⟩
    · match bs with
      | [] | [_] => simp [decodeMessage, hb] at h
      | d0 :: d1 :: tail =>
        obtain ⟨j, hj, -⟩ := shortRow_eq_some hb d0 d1
        rw [decodeMessage_short hb hj] at h
        cases h
        exact .inr ⟨b, d0, d1, rfl, hb, hj⟩

/-! ## The statements -/

/-- Settles O40: each form's bytes select their own row, and the decoder stops at the form's end. -/
theorem messageRoundTrip : Obligations.MessageRoundTrip := by
  unfold Obligations.MessageRoundTrip
  rintro i rest hw (hs | hs)
  · obtain ⟨first, d0, d1, hbytes, hf, hrow⟩ := shortRow_of_stage hs
    rw [hbytes]
    exact decodeMessage_short hf hrow rest
  · obtain ⟨acc, hbytes, hacc, hrow⟩ := sysexRow_of_stage hw hs
    rw [hbytes, decodeMessage_sysex hacc, hrow]

/-- Settles O41: of either form, the row keeps the message's bytes (`sysexRow_bytes`, `shortRow_eq_some`). -/
theorem decodedMessageIsItsBytes : Obligations.DecodedMessageIsItsBytes := by
  unfold Obligations.DecodedMessageIsItsBytes
  intro bs i rest h
  obtain ⟨acc, rfl, hacc, rfl⟩ | ⟨first, d0, d1, rfl, hf, hrow⟩ := decodeMessage_eq_ok h
  · obtain ⟨hbytes, hwf, hstage, -⟩ := sysexRow_bytes acc
    exact ⟨by rw [hbytes], hwf hacc, .inr hstage⟩
  · obtain ⟨j, hj, hbytes, hwf, hstage, -⟩ := shortRow_eq_some hf d0 d1
    cases hj.symm.trans hrow
    exact ⟨by rw [hbytes], hwf, .inl hstage⟩

/-- Settles O44: the words evaluated one by one. -/
theorem wordsOfTheSpecDecode : Obligations.WordsOfTheSpecDecode := by
  unfold Obligations.WordsOfTheSpecDecode
  exact ⟨rfl, rfl, rfl, rfl, rfl, rfl, rfl, rfl, rfl, rfl⟩

end Sys2Proof.Proofs
end

section
/-!
PROOFS. The row of a symbol and of a message's selecting byte, against the opcode table (R54, R59, R65, R100).
-/

open Sys2Proof Sys2Proof.Machine Sys2Proof.Claims

namespace Sys2Proof.Proofs

/-! ## Symbols -/

/-- A reader row is what its one symbol is in its phase. -/
theorem decodeSymbol_of_phase {i : Instr} {ph : Phase} (hw : i.wf = true) (hp : i.phase = some ph) :
    ∃ x, encode i = [x] ∧ decodeSymbol ph x = i := by
  cases i with
  | sysexStart | sysexEnd | errIdle | errInSysex | errInShort | shortData0 | shortData1 => cases hp; exact ⟨_, rfl, rfl⟩
  | shortStart b =>
    cases hp
    replace hw : b ≠ Wire.sysexStart := of_decide_eq_true hw
    exact ⟨_, rfl, by simp [decodeSymbol, hw]⟩
  | sysexData b | sysexOverflow b =>
    cases hp
    replace hw : b ≠ Wire.sysexEnd := of_decide_eq_true hw
    exact ⟨_, rfl, by simp [decodeSymbol, hw]⟩
  | _ => cases hp

/-- The row of a symbol is well formed, has that symbol, and is of the phase's stage: the cases of R100. -/
theorem decodeSymbol_row (ph : Phase) (x : Symbol) :
    (decodeSymbol ph x).wf = true ∧ encode (decodeSymbol ph x) = [x] ∧ (decodeSymbol ph x).stage = symbolStage ph x := by
  cases x with
  | err => cases ph <;> exact ⟨rfl, rfl, rfl⟩
  | byte b =>
    cases ph with
    | idle =>
      by_cases hb : b = Wire.sysexStart
      · subst hb
        exact ⟨rfl, rfl, rfl⟩
      · simp only [decodeSymbol, hb, if_false]
        exact ⟨decide_eq_true hb, rfl, rfl⟩
    | inSysex full =>
      by_cases hb : b = Wire.sysexEnd
      · subst hb
        exact ⟨rfl, rfl, rfl⟩
      · simp only [decodeSymbol, hb, if_false]
        cases full <;> exact ⟨decide_eq_true hb, rfl, rfl⟩
    | inShort last => cases last <;> exact ⟨rfl, rfl, rfl⟩

/-- Settles O42: a row to its symbol, a symbol to its row, and the rows that R104 and R107 to R109 name. -/
theorem symbolRowsRoundTrip : Obligations.SymbolRowsRoundTrip := by
  unfold Obligations.SymbolRowsRoundTrip
  exact ⟨fun _ _ => decodeSymbol_of_phase, decodeSymbol_row, rfl, fun _ => ⟨rfl, rfl⟩, fun _ => rfl⟩

/-! ## The opcode table -/

/-- In every phase the table selects the row that the reader reads. -/
theorem decodeSymbol_selects (ph : Phase) (b : Byte) :
    some (decodeSymbol ph (.byte b)).mnemonic = selectRow (stageOf ph) (some ph) b := by
  cases ph with
  | idle => revert b; decide
  | inSysex full =>
    by_cases hb : b = Wire.sysexEnd
    · subst hb
      cases full <;> decide
    · simp only [decodeSymbol, hb, if_false]
      cases full with
      | false => exact (Laws.Selects.select_data b hb).symm
      | true => exact (Laws.Selects.select_overflow b hb).symm
  | inShort last =>
    cases last with
    | false => exact (Laws.Selects.select_data0 b).symm
    | true => exact (Laws.Selects.select_data1 b).symm

/-- Which row a short message is depends on its first byte alone. -/
theorem shortRow_mnemonic (first d0 d1 : Byte) :
    (shortRow first d0 d1).map Instr.mnemonic = (shortRow first 0 0).map Instr.mnemonic := by
  unfold shortRow
  split
  case h_16 => split <;> rfl
  all_goals rfl

theorem shortRow_selects {first : Byte} (hf : first ≠ 0xF0) (d0 d1 : Byte) :
    (shortRow first d0 d1).map Instr.mnemonic = selectRow .shortFirst none first := by
  rw [shortRow_mnemonic]
  revert first
  decide

/-- Which row a sysex message is depends on its subtype byte alone. -/
theorem sysexRow_mnemonic (sub : Byte) (p : List Byte) :
    (sysexRow (sub :: p)).mnemonic = (sysexRow [sub]).mnemonic := by
  simp only [sysexRow, apply_ite Instr.mnemonic]
  rfl

theorem sysexRow_selects (sub : Byte) (p : List Byte) :
    some (sysexRow (sub :: p)).mnemonic = selectRow .sysexSubtype none sub := by
  rw [sysexRow_mnemonic]
  revert sub
  decide

/-- Two rows of one stage, neither a default nor under a condition, that agree on the bits both masks look at. -/
def overlap (r q : Row) : Bool :=
  decide (r.stage = q.stage) && !r.dflt && !q.dflt && r.cond.isNone && q.cond.isNone &&
    decide (r.bits &&& q.mask = q.bits &&& r.mask)

/-- Rows that select one byte overlap: the byte shows the bits on which they agree. -/
theorem overlap_of_selected {r q : Row} {b : Byte} (hstage : r.stage = q.stage) (hrd : r.dflt = false)
    (hqd : q.dflt = false) (hrc : r.cond = none) (hqc : q.cond = none) (hr : b &&& r.mask = r.bits)
    (hq : b &&& q.mask = q.bits) : overlap r q = true := by
  have hagree : r.bits &&& q.mask = q.bits &&& r.mask := by
    rw [← hr, ← hq, BitVec.and_assoc, BitVec.and_assoc, BitVec.and_comm r.mask]
  simp [overlap, hstage, hrd, hqd, hrc, hqc, hagree]

/-- R65: a row overlaps with no row but itself. -/
theorem opcodeRows_overlap : ∀ r ∈ opcodeRows, opcodeRows.filter (overlap r) ⊆ [r] := by decide

/-- Settles O43: each decoder against the table, and the rows of one stage against each other. -/
theorem decoderFollowsTheOpcodeTable : Obligations.DecoderFollowsTheOpcodeTable := by
  unfold Obligations.DecoderFollowsTheOpcodeTable
  refine ⟨decodeSymbol_selects, fun first d0 d1 hf => shortRow_selects hf d0 d1, sysexRow_selects, ?_⟩
  intro r q b hr hq hstage hrd hqd hrc hqc hrb hqb
  have hover : q ∈ opcodeRows.filter (overlap r) :=
    List.mem_filter.2 ⟨hq, overlap_of_selected hstage hrd hqd hrc hqc hrb hqb⟩
  exact (List.mem_singleton.1 (opcodeRows_overlap r hr hover)).symm

end Sys2Proof.Proofs
end

section
/-!
PROOFS. What a call answers: an encoder operation is refused or sends one frame, whose opcode byte is its row's (R65, R150
to R161), so that a step faults nowhere (R60, R100).
-/

open Sys2Proof Sys2Proof.Machine Sys2Proof.Claims

namespace Sys2Proof.Proofs

/-! ## The opcode byte of a frame -/

/-- The byte by which the table tells a sent frame: the first, or a sysex frame's subtype byte (R65, stage tx). -/
def frameByte (frame : List Byte) : Option Byte := if frame.head? = some 0xF0 then frame[1]? else frame[0]?

/-- The frame is told by the row of this operation. -/
def FrameSelects (i : Instr) (frame : List Byte) : Prop :=
  ∃ b, frameByte frame = some b ∧ selectRow .tx none b = some i.mnemonic

theorem frameSelects_of_sysexFrame {i : Instr} {sub : Byte} (fields : List Byte)
    (h : selectRow .tx none sub = some i.mnemonic) : FrameSelects i (sysexFrame sub fields) :=
  ⟨sub, rfl, h⟩

theorem frameSelects_of_first {i : Instr} {first : Byte} (rest : List Byte)
    (h : first ≠ 0xF0 ∧ selectRow .tx none first = some i.mnemonic) : FrameSelects i (first :: rest) :=
  ⟨first, if_neg fun e => h.1 (Option.some.inj e), h.2⟩

/-! A channel command with a channel of four bits is no start marker and keeps the command's row. -/

theorem select_writeDigital : ∀ port : Byte, port.toNat ≤ 15 →
    Wire.cmdDigital ||| port ≠ 0xF0 ∧ selectRow .tx none (Wire.cmdDigital ||| port) = some "TX_WRITE_DIGITAL" := by decide

theorem select_writeAnalog : ∀ pin : Byte, pin.toNat ≤ 15 →
    Wire.cmdAnalog ||| pin ≠ 0xF0 ∧ selectRow .tx none (Wire.cmdAnalog ||| pin) = some "TX_WRITE_ANALOG" := by decide

theorem select_reportAnalog : ∀ pin : Byte, pin.toNat ≤ 15 →
    Wire.cmdReportAnalog ||| pin ≠ 0xF0 ∧
      selectRow .tx none (Wire.cmdReportAnalog ||| pin) = some "TX_REPORT_ANALOG" := by decide

theorem select_reportDigital : ∀ port : Byte, port.toNat ≤ 15 →
    Wire.cmdReportDigital ||| port ≠ 0xF0 ∧
      selectRow .tx none (Wire.cmdReportDigital ||| port) = some "TX_REPORT_DIGITAL" := by decide

/-- A pin's port has four bits (R88). -/
theorem portOf_le {pin : Byte} (h : pin.toNat ≤ Wire.pinIndexMax) : (portOf pin).toNat ≤ 15 := by
  replace h : pin.toNat ≤ 127 := h
  simp only [portOf, BitVec.toNat_ushiftRight, Nat.shiftRight_eq_div_pow]
  omega

/-! ## The operations -/

/-- An encoder operation refuses its arguments, or sends one frame of its own row, with a cache write or without. -/
theorem exec_tx_refused_or_sends {i : Instr} (hi : i.stage = .tx) (s : State) :
    exec i s = .refused .argumentOutOfRange ∨
    ∃ frame, FrameSelects i frame ∧
      (exec i s = .next (s.sendFrame frame) ∨ ∃ b, exec i s = .next (s.sendCached frame b)) := by
  cases i with
  | txSetPinMode pin mode => exact .inr ⟨_, frameSelects_of_first _ ⟨by decide, rfl⟩, .inl rfl⟩
  | txWriteDigital pin level =>
    by_cases h : pin.toNat ≤ Wire.pinIndexMax ∧ level.toNat ≤ 1
    · exact .inr ⟨_, frameSelects_of_first _ (select_writeDigital _ (portOf_le h.1)),
        .inr ⟨_, if_pos h⟩⟩
    · exact .inl (if_neg h)
  | txWriteAnalog pin value =>
    by_cases h : pin.toNat ≤ 15
    · exact .inr ⟨_, frameSelects_of_first _ (select_writeAnalog pin h), .inr ⟨_, if_pos h⟩⟩
    · exact .inl (if_neg h)
  | txReportAnalog pin enable =>
    by_cases h : pin.toNat ≤ 15 ∧ enable.toNat ≤ 1
    · exact .inr ⟨_, frameSelects_of_first _ (select_reportAnalog pin h.1), .inl (if_pos h)⟩
    · exact .inl (if_neg h)
  | txReportDigital port enable =>
    by_cases h : port.toNat ≤ 15 ∧ enable.toNat ≤ 1
    · exact .inr ⟨_, frameSelects_of_first _ (select_reportDigital port h.1), .inl (if_pos h)⟩
    · exact .inl (if_neg h)
  | txCapsQuery | txAmapQuery | txI2cRequest | txI2cConfig | txSamplingInterval | txPinStateQuery =>
    exact .inr ⟨_, frameSelects_of_sysexFrame _ rfl, .inl rfl⟩
  | _ => cases hi

/-- Settles O39: the one frame that `exec_tx_refused_or_sends` finds is what the accepting transport appends. -/
theorem transmittedFramesSelectTheirRows : Obligations.TransmittedFramesSelectTheirRows := by
  unfold Obligations.TransmittedFramesSelectTheirRows
  intro i s t hi hup h
  obtain hr | ⟨frame, hframe, hs | ⟨b, hs⟩⟩ := exec_tx_refused_or_sends hi s
  · cases hr.symm.trans h
  · cases hs.symm.trans h
    exact ⟨frame, by rw [State.sendFrame_up s frame hup], hframe⟩
  · cases hs.symm.trans h
    exact ⟨frame, by rw [State.sendCached_up s frame b hup], hframe⟩

/-! ## No fault -/

/-- A call completes or is refused. -/
theorem exec_call_ne_fault {i : Instr} (hi : isCall i = true) (s : State) (f : Fault) : exec i s ≠ .fault f := by
  simp only [isCall, Bool.or_eq_true, decide_eq_true_eq] at hi
  rcases hi with hcodec | htx
  · obtain ⟨r, hr⟩ := exec_codec_returns hcodec s
    simp [hr]
  · obtain hr | ⟨frame, -, hs | ⟨b, hs⟩⟩ := exec_tx_refused_or_sends htx s
    · simp [hr]
    · simp [hs]
    · simp [hs]

theorem step_call {s : State} {i : Instr} {rest : List Stimulus} (he : s.env = .call i :: rest) :
    step s = if isCall i then exec i { s with env := rest } else .refused .notACall := by
  cases hi : isCall i <;> simp [step, fetch, he, hi]

/-- Every other stimulus, and none at all, leads to a next state (R100, R112, R214). -/
theorem step_next_of_no_call {s : State} (h : ∀ i, s.env.head? ≠ some (.call i)) : ∃ t, step s = .next t := by
  cases he : s.env with
  | nil => exact ⟨s, by simp [step, fetch, he]⟩
  | cons x rest =>
    cases x with
    | sym x =>
      cases hp : s.phase with
      | none => exact ⟨{ s with env := rest }, by simp [step, fetch, he, hp]⟩
      | some ph =>
        rw [step_sym he hp]
        exact exec_symbol_next x hp rfl rfl
    | call i => exact absurd (congrArg List.head? he) (h i)
    | txLine up => exact ⟨{ s with env := rest, txUp := up }, by simp [step, fetch, he]⟩
    | rst => exact ⟨({ s with env := rest } : State).resetInstance, by simp [step, fetch, he]⟩

/-- Settles O53: a call by `exec_call_ne_fault`, everything else by its next state. -/
theorem stepNeverFaults : Obligations.StepNeverFaults := by
  unfold Obligations.StepNeverFaults
  refine ⟨fun s f => ?_, fun s => step_next_of_no_call⟩
  by_cases h : ∃ i rest, s.env = .call i :: rest
  · obtain ⟨i, rest, he⟩ := h
    rw [step_call he]
    split
    · next hi => exact exec_call_ne_fault hi _ f
    · simp
  · have hhead : ∀ i, s.env.head? ≠ some (.call i) := fun i hi => h ⟨i, _, List.eq_cons_of_mem_head? hi⟩
    obtain ⟨t, ht⟩ := step_next_of_no_call hhead
    simp [ht]

end Sys2Proof.Proofs
end

section
/-!
PROOFS. A reader with an unbounded accumulator takes every byte in its stride (R60, R189).
-/

open Sys2Proof Sys2Proof.Machine Sys2Proof.Claims

namespace Sys2Proof.Proofs

/-- `t` is `s` after `n` more symbols of which none failed: the reader runs, and messages alone were appended. -/
structure ReadsOn (s t : State) (n : Nat) : Prop where
  running : t.running
  cfg : t.cfg = s.cfg
  pos : t.pos = s.pos + n
  out : ∃ es : List Event, t.out = s.out ++ es ∧ ∀ e ∈ es, e.isMsg = true

theorem ReadsOn.trans {s t u : State} {m n : Nat} (h : ReadsOn s t m) (h' : ReadsOn t u n) : ReadsOn s u (m + n) := by
  obtain ⟨es, hes, hmsg⟩ := h.out
  obtain ⟨es', hes', hmsg'⟩ := h'.out
  refine ⟨h'.running, h'.cfg.trans h.cfg, by rw [h'.pos, h.pos, Nat.add_assoc], es ++ es', by simp [hes', hes], ?_⟩
  exact List.forall_mem_append.2 ⟨hmsg, hmsg'⟩

/-- A step inside a message appends nothing. -/
theorem readsOn_inside {s : State} {r : RState} (rest : List Stimulus) (hr : r.st ≠ 3) :
    ReadsOn s { s with rs := r, pos := s.pos + 1, env := rest } 1 :=
  ⟨decide_eq_false hr, rfl, rfl, [], by simp, by simp⟩

/-- A step that completes a message appends it. -/
theorem readsOn_deliver (s : State) (rest : List Stimulus) (m : DecodedMessage) :
    ReadsOn s (({ s with pos := s.pos + 1, env := rest } : State).deliver m) 1 :=
  ⟨rfl, rfl, rfl, [.msg m], rfl, by simp [Event.isMsg]⟩

/-- One byte, in each state of a running reader. -/
theorem step_byte_readsOn {s : State} {b : Byte} {rest : List Stimulus} (hrun : s.running) (hmax : s.cfg.sysexMax = none)
    (he : s.env = .sym (.byte b) :: rest) : ∃ t, step s = .next t ∧ t.env = rest ∧ ReadsOn s t 1 := by
  cases hrs : s.rs with
  | idle =>
    by_cases hb : b = 0xF0
    · subst hb
      exact ⟨_, step_startMarker hrs he, rfl, readsOn_inside rest (by decide)⟩
    · exact ⟨_, step_shortStart hrs hb he, rfl, readsOn_inside rest (by simp [RState.st])⟩
  | inSysex acc =>
    by_cases hb : b = 0xF7
    · subst hb
      exact ⟨_, step_endMarker hrs he, rfl, readsOn_deliver s rest _⟩
    · exact ⟨_, step_sysexData hrs (full_of_unbounded hmax acc) hb he, rfl, readsOn_inside rest (by simp [RState.st])⟩
  | inShort first cmd cnt =>
    cases cnt with
    | two => exact ⟨_, step_shortData0 hrs he, rfl, readsOn_inside rest (by simp [RState.st])⟩
    | one d0 => exact ⟨_, step_shortData1 hrs he, rfl, readsOn_deliver s rest _⟩
  | halted c =>
    have hhalted : s.isHalted = true := isHalted_iff.2 ⟨c, hrs⟩
    exact absurd hrun (by simp [State.running, hhalted])

theorem runFor_bytes_readsOn {s : State} {bs : List Byte} {tail : List Stimulus} (hrun : s.running)
    (hmax : s.cfg.sysexMax = none) (he : s.env = presents (bs.map .byte) ++ tail) :
    ∃ t, runFor bs.length s = .next t ∧ t.env = tail ∧ ReadsOn s t bs.length := by
  induction bs generalizing s with
  | nil => exact ⟨s, rfl, he, hrun, rfl, rfl, [], by simp, by simp⟩
  | cons b bs ih =>
    obtain ⟨u, hstep, henv, hu⟩ := step_byte_readsOn hrun hmax he
    obtain ⟨t, hrest, htail, ht⟩ := ih hu.running (hu.cfg ▸ hmax) henv
    refine ⟨t, (runFor_next hstep).trans hrest, htail, ?_⟩
    rw [List.length_cons, Nat.add_comm]
    exact hu.trans ht

/-- Settles O52: the bytes one by one (`step_byte_readsOn`). -/
theorem noByteMakesTheReaderFail : Obligations.NoByteMakesTheReaderFail := by
  unfold Obligations.NoByteMakesTheReaderFail
  intro s bs tail hrun hmax he
  obtain ⟨t, hrunFor, htail, ht⟩ := runFor_bytes_readsOn hrun hmax he
  exact ⟨t, hrunFor, ht.running, ht.pos, htail, ht.out⟩

end Sys2Proof.Proofs
end

section
/-!
PROOFS. The stream items that write a message (R64): each is one complete message on the wire, and what it decodes to is
what it was written to mean.
-/

open Sys2Proof Sys2Proof.Machine Sys2Proof.Claims

namespace Sys2Proof.Proofs

/-! ## Bytes below 128 are no end marker -/

theorem ne_endMarker_of_lt {b : Byte} (h : b.toNat < 128) : b ≠ 0xF7 := by
  rintro rfl
  exact absurd h (by decide)

theorem pairBytes_ne_endMarker (v : Nat) : ∀ b ∈ pairBytes v, b ≠ 0xF7 :=
  fun b hb => ne_endMarker_of_lt (pairBytes_lt v b hb)

/-- A masked number is seven bits. -/
theorem ofNat_and_127_toNat (n : Nat) : (BitVec.ofNat 8 (n &&& 0x7F)).toNat = n % 128 := by
  simp only [BitVec.toNat_ofNat, show n &&& 127 = n % 128 from Nat.and_two_pow_sub_one_eq_mod n 7]
  omega

theorem le7Bytes_ne_endMarker (fuel n : Nat) : ∀ b ∈ le7Bytes fuel n, b ≠ 0xF7 := by
  have hlow : ∀ n : Nat, BitVec.ofNat 8 (n &&& 0x7F) ≠ (0xF7 : Byte) := fun n =>
    ne_endMarker_of_lt (by rw [ofNat_and_127_toNat]; omega)
  induction fuel generalizing n with
  | zero => exact List.forall_mem_singleton.2 (hlow n)
  | succ fuel ih =>
    refine List.forall_mem_cons.2 ⟨hlow n, ?_⟩
    split
    · simp
    · exact ih _

theorem packByteStream_ne_endMarker (bs : List Byte) : ∀ b ∈ packByteStream bs, b ≠ 0xF7 := by
  have hmask : ∀ b : Byte, b &&& 0x7F ≠ 0xF7 := by decide
  induction bs with
  | nil => simp [packByteStream]
  | cons b bs ih => exact List.forall_mem_cons.2 ⟨hmask _, List.forall_mem_cons.2 ⟨hmask _, ih⟩⟩

theorem capsBytes_ne_endMarker {pins : List (List (Byte × Byte))}
    (h : ∀ l ∈ pins, ∀ e ∈ l, e.1 ≠ 0xF7 ∧ e.2 ≠ 0xF7) : ∀ b ∈ capsBytes pins, b ≠ 0xF7 := by
  intro b hb
  simp only [capsBytes, List.mem_flatMap, List.mem_append, List.mem_cons, List.not_mem_nil, or_false] at hb
  obtain ⟨l, hl, ⟨e, he, rfl | rfl⟩ | rfl⟩ := hb
  · exact (h l hl e he).1
  · exact (h l hl e he).2
  · decide

/-! ## What is written is what is read -/

/-- R80 undoes R81 on the values R81 supports. -/
theorem decode14_encode7pair {v : Nat} (h : v ≤ 16383) :
    decode14 (encode7pair v).1 (encode7pair v).2 = BitVec.ofNat 16 v := by
  apply BitVec.eq_of_toNat_eq
  rw [decode14_toNat, encode7pair_fst_toNat, encode7pair_snd_toNat, or_shift_seven _ (by omega), BitVec.toNat_ofNat]
  omega

/-- A text of characters is unpacked as those characters (R83, R122). -/
theorem unpackPairs_flatMap_pairBytes {text : List Nat} (h : ∀ c ∈ text, c ≤ 16383) :
    unpackPairs (text.flatMap pairBytes) = text.map (BitVec.ofNat 16) := by
  induction text with
  | nil => rfl
  | cons c text ih =>
    obtain ⟨hc, htext⟩ := List.forall_mem_cons.1 h
    simp [pairBytes, unpackPairs, decode14_encode7pair hc, ih htext]

theorem flatMap_pairBytes_length (text : List Nat) : (text.flatMap pairBytes).length = 2 * text.length := by
  simp [List.length_flatMap, pairBytes, Nat.mul_comm]

/-- Joining the two parts of a packed byte gives the byte (R82, R83). -/
theorem decode14_packed : ∀ b : Byte, decode14 (b &&& 0x7F) ((b >>> 7) &&& 0x7F) = b.setWidth 16 := by decide

theorem unpackPairs_packByteStream (bs : List Byte) : unpackPairs (packByteStream bs) = bs.map (·.setWidth 16) := by
  induction bs with
  | nil => rfl
  | cons b bs ih => simp only [packByteStream, unpackPairs, decode14_packed, ih, List.map_cons]

/-- A number written seven bits a byte is read back (R84, R125): each byte takes at least one from it, so a fuel of its own
size lasts. -/
theorem decodeLe7_le7Bytes {fuel n : Nat} (h : n ≤ fuel) : decodeLe7 (le7Bytes fuel n) = n := by
  have hshift : ∀ n : Nat, n >>> 7 = n / 128 := fun n => Nat.shiftRight_eq_div_pow n 7
  induction fuel generalizing n with
  | zero =>
    obtain rfl : n = 0 := by omega
    rfl
  | succ fuel ih =>
    have hrest : decodeLe7 (if n >>> 7 = 0 then [] else le7Bytes fuel (n >>> 7)) = n / 128 := by
      split
      · next h0 => rw [← hshift, h0]; rfl
      · next h0 =>
        rw [hshift] at h0 ⊢
        exact ih (by omega)
    simp only [le7Bytes, decodeLe7, hrest]
    rw [ofNat_and_127_toNat, or_shift_seven _ (by omega)]
    omega

/-- The command of a channel message is its first byte with the channel cleared (R54). -/
theorem cmdOf_ofNibbles : ∀ hi lo : Nibble, hi ≠ 0xF → cmdOf (Byte.ofNibbles hi lo) = Byte.ofNibbles hi 0 := by decide

theorem decodeShort_analog (pin : Nibble) (d0 d1 : Byte) :
    decodeShort (Byte.ofNibbles 0xE pin) (cmdOf (Byte.ofNibbles 0xE pin)) d0 d1 =
      decodeAnalog (Byte.ofNibbles 0xE pin) d0 d1 := by
  rw [cmdOf_ofNibbles _ _ (by decide), decodeShort, if_pos (by decide)]

/-! The typed decode that a subtype byte picks (R121). -/

theorem decodeSysex_firmware (p : List Byte) : decodeSysex (Wire.subFirmware :: p) = decodeFirmware p := rfl

theorem decodeSysex_caps (p : List Byte) : decodeSysex (Wire.subCaps :: p) = decodeCaps p := rfl

theorem decodeSysex_amap (p : List Byte) : decodeSysex (Wire.subAmap :: p) = decodeAmap p := rfl

theorem decodeSysex_pinState (p : List Byte) : decodeSysex (Wire.subPinState :: p) = decodePinState p := rfl

theorem decodeSysex_i2cReply (p : List Byte) : decodeSysex (Wire.subI2cReply :: p) = decodeI2cReply p := rfl

/-! ## Items as messages -/

/-- The message on the wire that an item writes; `none` for the two items that write one symbol. -/
def itemMessage : Item → Option WireMessage
  | .analog pin value => some (.short (Byte.ofNibbles 0xE pin) (encode7pair value).1 (encode7pair value).2)
  | .version major minor => some (.short Wire.cmdVersion major minor)
  | .short b0 b1 b2 => some (.short b0 b1 b2)
  | .sysex sub body => some (.sysex (sub :: body))
  | .firmware major minor text => some (.sysex (Wire.subFirmware :: major :: minor :: text.flatMap pairBytes))
  | .caps pins => some (.sysex (Wire.subCaps :: capsBytes pins))
  | .amap entries => some (.sysex (Wire.subAmap :: entries))
  | .pinState pin mode state => some (.sysex (Wire.subPinState :: pin :: mode :: le7Bytes state state))
  | .i2cReply addr reg bytes =>
    some (.sysex (Wire.subI2cReply :: (pairBytes addr ++ pairBytes reg ++ packByteStream bytes)))
  | .byte _ | .err => none

theorem itemMessage_symbols {i : Item} {w : WireMessage} (h : itemMessage i = some w) :
    i.symbols = w.bytes.map .byte := by
  cases i <;> cases h <;> rfl

/-- An item within its bounds writes a message that is complete where it ends (R50, R52). -/
theorem itemMessage_ok {i : Item} {w : WireMessage} (h : itemMessage i = some w) (hi : itemOk i) : w.Ok := by
  cases i with
  | analog pin value => cases h; exact ofNibbles_ne_sysexStart (by decide) pin
  | version major minor => cases h; exact (by decide : Wire.cmdVersion ≠ 0xF0)
  | short b0 b1 b2 => cases h; exact hi
  | sysex sub body => cases h; exact List.forall_mem_cons.2 hi
  | firmware major minor text =>
    cases h
    obtain ⟨hmajor, hminor, -⟩ := hi
    have htext : ∀ b ∈ text.flatMap pairBytes, b ≠ 0xF7 := fun b hb => by
      obtain ⟨c, -, hc⟩ := List.mem_flatMap.1 hb
      exact pairBytes_ne_endMarker c b hc
    exact List.forall_mem_cons.2 ⟨by decide, List.forall_mem_cons.2 ⟨hmajor, List.forall_mem_cons.2 ⟨hminor, htext⟩⟩⟩
  | caps pins =>
    cases h
    exact List.forall_mem_cons.2 ⟨by decide, capsBytes_ne_endMarker fun l hl e he => (hi l hl e he).2⟩
  | amap entries => cases h; exact List.forall_mem_cons.2 ⟨by decide, hi⟩
  | pinState pin mode state =>
    cases h
    obtain ⟨hpin, hmode⟩ := hi
    exact List.forall_mem_cons.2 ⟨by decide, List.forall_mem_cons.2 ⟨hpin, List.forall_mem_cons.2
      ⟨hmode, le7Bytes_ne_endMarker state state⟩⟩⟩
  | i2cReply addr reg bytes =>
    cases h
    have hpairs := List.forall_mem_append.2 ⟨pairBytes_ne_endMarker addr, pairBytes_ne_endMarker reg⟩
    exact List.forall_mem_cons.2
      ⟨by decide, List.forall_mem_append.2 ⟨hpairs, packByteStream_ne_endMarker bytes⟩⟩
  | byte b | err => cases h

/-- The message decodes to what the item means, by the decoder's rule for its kind. -/
theorem itemMessage_decoded {i : Item} {w : WireMessage} (h : itemMessage i = some w) (hi : itemOk i) :
    itemMeans i = some w.decoded := by
  cases i with
  | analog pin value =>
    cases h
    rw [WireMessage.decoded, decodeShort_analog, decodeAnalog, loNibble_ofNibbles, decode14_encode7pair hi, itemMeans]
  | version major minor => cases h; rfl
  | short b0 b1 b2 => cases h; rfl
  | sysex sub body => cases h; rfl
  | firmware major minor text =>
    cases h
    obtain ⟨-, -, htext⟩ := hi
    have heven : (text.flatMap pairBytes).length % 2 = 0 := by rw [flatMap_pairBytes_length, Nat.mul_mod_right]
    rw [WireMessage.decoded, decodeSysex_firmware]
    simp only [itemMeans, decodeFirmware, heven, if_true, unpackPairs_flatMap_pairBytes htext]
  | caps pins =>
    cases h
    have hparse : parseCaps (capsBytes pins) = some pins := parseCapsFrom_capsBytes (fun l hl e he => (hi l hl e he).1) []
    rw [WireMessage.decoded, decodeSysex_caps]
    simp [itemMeans, decodeCaps, hparse]
  | amap entries => cases h; rw [WireMessage.decoded, decodeSysex_amap, decodeAmap, itemMeans]
  | pinState pin mode state =>
    cases h
    rw [WireMessage.decoded, decodeSysex_pinState]
    simp [itemMeans, decodePinState, decodeLe7_le7Bytes]
  | i2cReply addr reg bytes =>
    cases h
    obtain ⟨haddr, hreg⟩ := hi
    rw [WireMessage.decoded, decodeSysex_i2cReply]
    simp [itemMeans, decodeI2cReply, pairBytes, decode14_encode7pair haddr, decode14_encode7pair hreg,
      unpackPairs_packByteStream]
  | byte b | err => cases h

/-- An item that means a message writes one. -/
theorem itemMessage_of_means {i : Item} {m : DecodedMessage} (h : itemMeans i = some m) : ∃ w, itemMessage i = some w := by
  cases i with
  | byte b | err => cases h
  | _ => exact ⟨_, rfl⟩

/-- Settles O57: the run of the one message that the item writes. -/
theorem writtenItemsAreReadAsMeant : Obligations.WrittenItemsAreReadAsMeant := by
  unfold Obligations.WrittenItemsAreReadAsMeant
  refine ⟨?_, fun _ => rfl, rfl⟩
  intro s tail i m hrs hmax hok hm he
  obtain ⟨w, hw⟩ := itemMessage_of_means hm
  obtain rfl : w.decoded = m := Option.some.inj ((itemMessage_decoded hw hok).symm.trans hm)
  rw [itemMessage_symbols hw] at he ⊢
  rw [List.length_map]
  exact runFor_wireMessage hrs hmax (itemMessage_ok hw hok) he

end Sys2Proof.Proofs
end

section
/-!
PROOFS. What `place` puts in front of the reader and what the next step makes of it (R65, R104, R106; log entry 14).
-/

open Sys2Proof Sys2Proof.Machine Sys2Proof.Claims

namespace Sys2Proof.Proofs

/-! ## The row of a message does what its last symbol does -/

/-- The row of a sysex message completes it with the decoder's result (R104). -/
theorem exec_sysexRow {acc : List Byte} {s : State} (hrs : s.rs = .inSysex acc) :
    exec (sysexRow acc) s = .next (s.deliver (decodeSysex acc)) := by
  cases acc with
  | nil => exact completeSysex_eq _ hrs
  | cons sub p =>
    by_cases hnamed : sub ∈ Wire.namedSubtypes
    · simp only [Wire.namedSubtypes, List.mem_cons, List.not_mem_nil, or_false] at hnamed
      rcases hnamed with rfl | rfl | rfl | rfl | rfl | rfl | rfl | rfl | rfl | rfl | rfl <;>
        exact completeSysex_eq _ hrs
    · have hother : exec (.sysexOther sub p) s = .next (s.deliver (.unknown (sub :: p))) :=
        (if_neg hnamed).trans (completeSysex_eq _ hrs)
      simp only [Wire.namedSubtypes, List.mem_cons, List.not_mem_nil, or_false, not_or] at hnamed
      simpa [sysexRow, decodeSysex, hnamed] using hother

theorem decodeShort_channel {hi : Nibble} (h : hi ≠ 0xE ∧ hi ≠ 0xF) (chan : Nibble) (d0 d1 : Byte) :
    decodeShort (Byte.ofNibbles hi chan) (cmdOf (Byte.ofNibbles hi chan)) d0 d1 =
      .unknown [Byte.ofNibbles hi chan, d0, d1] := by
  have hcmd : ∀ hi : Nibble, hi ≠ 0xE ∧ hi ≠ 0xF →
      Byte.ofNibbles hi 0 ≠ Wire.cmdAnalog ∧ Byte.ofNibbles hi 0 ≠ Wire.cmdVersion := by decide
  rw [cmdOf_ofNibbles _ _ h.2, decodeShort, if_neg (hcmd hi h).1, if_neg (hcmd hi h).2]

/-- The row of a short message completes it with the decoder's result (R106). -/
theorem exec_shortFirst {i : Instr} {first d0 d1 : Byte} (hs : i.stage = .shortFirst)
    (hbytes : messageBytes i = [first, d0, d1]) (s : State) :
    exec i s = completeShort first d0 (decodeShort first (cmdOf first) d0 d1) s := by
  cases i with
  | short00 | short10 | short20 | short30 | short40 | short50 | short60 | short70 | short80 | digital | shortA0
  | shortB0 | reportAnalog | reportDigital =>
    cases hbytes
    rw [decodeShort_channel (by decide)]
    rfl
  | analog =>
    cases hbytes
    rw [decodeShort_analog]
    rfl
  | shortF1 | shortF2 | shortF3 | pinMode | shortF5 | shortF6 | shortF7 | shortF8 | version | shortFA | shortFB
  | shortFC | shortFD | shortFE | shortFF => cases hbytes; rfl
  | _ => cases hs

/-! ## Where an instruction is placed -/

theorem place_call {i : Instr} (hi : isCall i = true) (s : State) : s.place i = { s with env := .call i :: s.env } :=
  if_pos hi

theorem place_sysexRow (s : State) (acc : List Byte) : s.place (sysexRow acc) = s.presentSysex acc := by
  obtain ⟨hbytes, -, -, hcall⟩ := sysexRow_bytes acc
  simp only [State.place, hcall, hbytes, sysexBytes, Bool.false_eq_true, if_false]
  match acc with
  | [] | [_] => rfl
  | b :: c :: acc => simp [List.dropLast]

theorem place_shortFirst {i : Instr} {first d0 d1 : Byte} (hcall : isCall i = false)
    (hbytes : messageBytes i = [first, d0, d1]) (hf : first ≠ Wire.sysexStart) (s : State) :
    s.place i = s.presentShort first d0 d1 := by
  simp [State.place, hcall, hbytes, hf]

/-- Under the parameters for a phase an empty accumulator is full as the phase says. -/
theorem full_forPhase (cfg : Params) (isFull : Bool) : full (Params.forPhase cfg (.inSysex isFull)) [] = isFull := by
  obtain ⟨sysexMax, unmapped⟩ := cfg
  cases isFull with
  | true => rfl
  | false =>
    match sysexMax with
    | none | some 0 => rfl
    | some (n + 1) => simp [Params.forPhase, full]

/-- The reader where a reader row is placed: as it is if it is in the row's phase, else put into it. -/
def inPhase (s : State) (ph : Phase) : State := if s.phase = some ph then s else s.enterPhase ph

theorem inPhase_of_phase {s : State} {ph : Phase} (h : s.phase = some ph) : inPhase s ph = s := if_pos h

theorem inPhase_phase (s : State) (ph : Phase) : (inPhase s ph).phase = some ph := by
  unfold inPhase
  split
  · assumption
  · cases ph with
    | idle => rfl
    | inSysex isFull => exact congrArg (fun b => some (Phase.inSysex b)) (full_forPhase s.cfg isFull)
    | inShort last => cases last <;> rfl

/-- Only the reader state and the parameters are set. -/
theorem inPhase_frame (s : State) (ph : Phase) :
    inPhase s ph = { s with rs := (inPhase s ph).rs, cfg := (inPhase s ph).cfg } := by
  unfold inPhase
  split <;> rfl

theorem readerRow_no_message {i : Instr} {ph : Phase} (hp : i.phase = some ph) :
    isCall i = false ∧ messageBytes i = [] := by
  cases i with
  | sysexStart | shortStart | sysexEnd | sysexData | sysexOverflow | shortData0 | shortData1 | errIdle | errInSysex
  | errInShort => exact ⟨rfl, rfl⟩
  | _ => cases hp

theorem place_readerRow {i : Instr} {ph : Phase} {x : Symbol} (hp : i.phase = some ph) (hx : encode i = [x])
    (s : State) : s.place i = (inPhase s ph).present x := by
  obtain ⟨hcall, hbytes⟩ := readerRow_no_message hp
  simp [State.place, hcall, hbytes, hp, hx, inPhase, State.present]

/-! ## The next step -/

theorem step_present {s : State} {ph : Phase} {x : Symbol} (hp : s.phase = some ph) :
    step (s.present x) = exec (decodeSymbol ph x) { s with pos := s.pos + 1 } :=
  step_sym rfl hp

theorem step_place_call {i : Instr} (hi : isCall i = true) (s : State) : step (s.place i) = exec i s := by
  rw [place_call hi, step_call (rest := s.env) rfl, if_pos hi]

theorem step_place_sysexRow (s : State) (acc : List Byte) :
    step (s.place (sysexRow acc)) = exec (sysexRow acc) { s with rs := .inSysex acc, pos := s.pos + 1 } := by
  rw [place_sysexRow, exec_sysexRow rfl]
  exact step_endMarker rfl rfl

theorem shortRow_startMarker (d0 d1 : Byte) : shortRow Wire.sysexStart d0 d1 = none := rfl

theorem step_place_shortRow {first d0 d1 : Byte} {i : Instr} (hi : shortRow first d0 d1 = some i) (s : State) :
    step (s.place i) = exec i { s with rs := .inShort first (cmdOf first) (.one d0), pos := s.pos + 1 } := by
  have hf : first ≠ Wire.sysexStart := by
    rintro rfl
    cases (shortRow_startMarker d0 d1).symm.trans hi
  obtain ⟨j, hj, hbytes, -, hstage, hcall⟩ := shortRow_eq_some hf d0 d1
  obtain rfl : j = i := Option.some.inj (hj.symm.trans hi)
  rw [place_shortFirst hcall hbytes hf, exec_shortFirst hstage hbytes, completeShort_eq _ rfl]
  exact step_shortData1 rfl rfl

theorem step_place_readerRow {i : Instr} {ph : Phase} (hw : i.wf = true) (hp : i.phase = some ph) (s : State) :
    ∃ t, step (s.place i) = exec i { s with rs := (inPhase s ph).rs, cfg := (inPhase s ph).cfg, pos := s.pos + 1 } ∧
      exec i { s with rs := (inPhase s ph).rs, cfg := (inPhase s ph).cfg, pos := s.pos + 1 } = .next t := by
  obtain ⟨x, hx, rfl⟩ := decodeSymbol_of_phase hw hp
  have hphase := inPhase_phase s ph
  obtain ⟨t, ht⟩ := exec_symbol_next (s := inPhase s ph)
    (s' := { s with rs := (inPhase s ph).rs, cfg := (inPhase s ph).cfg, pos := s.pos + 1 }) x hphase rfl rfl
  refine ⟨t, ?_, ht⟩
  rw [place_readerRow hp hx, step_present hphase]
  exact congrArg (fun u : State => exec (decodeSymbol ph x) { u with pos := u.pos + 1 }) (inPhase_frame s ph)

/-- Settles O58: the four kinds of placement; a reader row's state is `inPhase`, which is the original in the phase. -/
theorem placedInstructionRunsNext : Obligations.PlacedInstructionRunsNext := by
  unfold Obligations.PlacedInstructionRunsNext
  refine ⟨fun s i hi => step_place_call hi s, step_place_sysexRow,
    fun s first d0 d1 i hi => step_place_shortRow hi s, fun s i ph hw hp => ?_⟩
  obtain ⟨t, hstep, hexec⟩ := step_place_readerRow hw hp s
  refine ⟨(inPhase s ph).rs, (inPhase s ph).cfg, t, inPhase_phase s ph, fun h => ?_, hstep, hexec⟩
  rw [inPhase_of_phase h]
  exact ⟨rfl, rfl⟩

end Sys2Proof.Proofs
end

section
/-!
PROOFS. The wire codec (spec/40_wirecodec.md): its calls change only the returned values, each function element by
element or bit by bit, and the round trips.
-/

open Sys2Proof Sys2Proof.Machine Sys2Proof.Claims

namespace Sys2Proof.Proofs

/-! ## A codec call returns its function's value -/

theorem exec_decode14 (lsb msb : Byte) (s : State) :
    exec (.decode14 lsb msb) s = .next (s.returns (.half (decode14 lsb msb))) := rfl

theorem exec_encode7pair (value : Nat) (s : State) :
    exec (.encode7pair value) s = .next (s.returns (.pair (encode7pair value).1 (encode7pair value).2)) := rfl

theorem exec_packByteStream (bs : List Byte) (s : State) :
    exec (.packByteStream bs) s = .next (s.returns (.bytes (packByteStream bs))) := rfl

theorem exec_unpackByteStream (wire : List Byte) (s : State) :
    exec (.unpackByteStream wire) s = .next (s.returns (.halves (unpackByteStream wire))) := rfl

theorem exec_decodeLe7 (bs : List Byte) (s : State) :
    exec (.decodeLe7 bs) s = .next (s.returns (.nat (decodeLe7 bs))) := rfl

theorem exec_portOfBitOf (pin : Byte) (s : State) :
    exec (.portOfBitOf pin) s = .next (s.returns (.portBit (portOf pin) (bitOf pin))) := rfl

/-! ## Byte streams, element by element (R82, R83) -/

theorem packByteStream_getElem?_even (bs : List Byte) (i : Nat) :
    (packByteStream bs)[2 * i]? = bs[i]?.map fun b : Byte => b &&& 0x7F := by
  induction bs generalizing i with
  | nil => rfl
  | cons b bs ih =>
    cases i with
    | zero => rfl
    | succ i => exact ih i

theorem packByteStream_getElem?_odd (bs : List Byte) (i : Nat) :
    (packByteStream bs)[2 * i + 1]? = bs[i]?.map fun b : Byte => (b >>> 7) &&& 0x7F := by
  induction bs generalizing i with
  | nil => rfl
  | cons b bs ih =>
    cases i with
    | zero => rfl
    | succ i => exact ih i

theorem unpackPairs_getElem? {wire : List Byte} {i : Nat} {lo hi : Byte} (hlo : wire[2 * i]? = some lo)
    (hhi : wire[2 * i + 1]? = some hi) : (unpackPairs wire)[i]? = some (decode14 lo hi) := by
  induction wire using unpackPairs.induct generalizing i with
  | case1 l h rest ih =>
    cases i with
    | zero => cases hlo; cases hhi; rfl
    | succ i => exact ih hlo hhi
  | case2 wire hshort =>
    match wire, hshort with
    | [], _ => cases hlo
    | [_], _ => cases hhi
    | l :: h :: rest, hshort => exact absurd rfl (hshort l h rest)

theorem unpackByteStream_of_even {wire : List Byte} (h : wire.length % 2 = 0) :
    unpackByteStream wire = unpackPairs wire := if_pos h

/-! ## The little-endian 7-bit number (R84) -/

/-- Bit `j` of the number is bit `j - 7k` of some byte `k`: of the first byte, or of a later one seven
bits further down. -/
theorem testBit_decodeLe7 (bs : List Byte) (j : Nat) :
    (decodeLe7 bs).testBit j = true ↔
      ∃ (k : Nat) (b : Byte), bs[k]? = some b ∧ 7 * k ≤ j ∧ b.toNat.testBit (j - 7 * k) = true := by
  induction bs generalizing j with
  | nil => simp
  | cons b bs ih =>
    have hsplit : (decodeLe7 (b :: bs)).testBit j = true ↔
        b.toNat.testBit j = true ∨ 7 ≤ j ∧ (decodeLe7 bs).testBit (j - 7) = true := by
      simp [decodeLe7, Nat.testBit_or, Nat.testBit_shiftLeft]
    rw [hsplit, ih]
    constructor
    · rintro (hb | ⟨hj, k, c, hk, hle, hc⟩)
      · exact ⟨0, b, rfl, Nat.zero_le j, hb⟩
      · exact ⟨k + 1, c, hk, by omega, by rwa [show j - 7 * (k + 1) = j - 7 - 7 * k by omega]⟩
    · rintro ⟨_ | k, c, hk, hle, hc⟩
      · cases hk
        exact .inl hc
      · exact .inr ⟨by omega, k, c, hk, by omega, by rwa [show j - 7 - 7 * k = j - 7 * (k + 1) by omega]⟩

/-- In protocol the bytes do not overlap, so the or is the sum. -/
theorem decodeLe7_eq_le7Sum {bs : List Byte} (h : ∀ b ∈ bs, b.toNat < 128) : decodeLe7 bs = le7Sum bs := by
  induction bs with
  | nil => rfl
  | cons b bs ih =>
    obtain ⟨hb, hbs⟩ := List.forall_mem_cons.1 h
    rw [decodeLe7, le7Sum, or_shift_seven _ hb, ih hbs]

/-- Only the last byte can reach bit `7 len`. -/
theorem decodeLe7_lt (bs : List Byte) : decodeLe7 bs < 2 ^ (7 * bs.length + 1) := by
  induction bs with
  | nil => decide
  | cons b bs ih =>
    have hb : b.toNat < 2 ^ (7 * (bs.length + 1) + 1) :=
      b.isLt.trans_le (Nat.pow_le_pow_right (by decide) (by omega))
    have hbs : decodeLe7 bs <<< 7 < 2 ^ (7 * (bs.length + 1) + 1) := Nat.shiftLeft_lt ih
    exact Nat.or_lt_two_pow hb hbs

/-! ## Single values (R81, R86, R88) -/

/-- R81 undoes R80 on two bytes in protocol. -/
theorem encode7pair_decode14 {l m : Byte} (hl : l.toNat < 128) (hm : m.toNat < 128) :
    encode7pair (decode14 l m).toNat = (l, m) := by
  rw [decode14_toNat, or_shift_seven _ hl]
  refine Prod.ext (BitVec.eq_of_toNat_eq ?_) (BitVec.eq_of_toNat_eq ?_)
  · rw [encode7pair_fst_toNat, Nat.add_mul_mod_self_left, Nat.mod_eq_of_lt hl]
  · rw [encode7pair_snd_toNat, Nat.add_mul_div_left _ _ (by decide), Nat.div_eq_of_lt hl, Nat.zero_add,
      Nat.mod_eq_of_lt hm]

theorem portOf_toNat (pin : Byte) : (portOf pin).toNat = pin.toNat / 8 := Nat.shiftRight_eq_div_pow pin.toNat 3

theorem bitOf_toNat (pin : Byte) : (bitOf pin).toNat = pin.toNat % 8 := Nat.and_two_pow_sub_one_eq_mod pin.toNat 3

/-! ## The obligations -/

/-- Settles O25: the two values as arithmetic. -/
theorem decode14AndEncode7pairReturnTheirValues : Obligations.Decode14AndEncode7pairReturnTheirValues := by
  unfold Obligations.Decode14AndEncode7pairReturnTheirValues
  refine ⟨fun s lsb msb => ⟨_, decode14_toNat lsb msb, exec_decode14 lsb msb s⟩, fun s value => ?_⟩
  have hl := encode7pair_fst_toNat value
  have hm := encode7pair_snd_toNat value
  exact ⟨_, _, by omega, by omega, by omega, exec_encode7pair value s⟩

/-- Settles O26: the packed list by its length and its even and odd elements. -/
theorem packSplitsEveryByteInOrder : Obligations.PackSplitsEveryByteInOrder := by
  unfold Obligations.PackSplitsEveryByteInOrder
  refine fun s bs => ⟨_, exec_packByteStream bs s, packByteStream_length bs, fun i b hb => ?_⟩
  simp [packByteStream_getElem?_even, packByteStream_getElem?_odd, hb]

/-- Settles O27: on an even length the list is `unpackPairs`; on an odd one the call returns all the same. -/
theorem unpackJoinsPairsInOrder : Obligations.UnpackJoinsPairsInOrder := by
  unfold Obligations.UnpackJoinsPairsInOrder
  refine fun s wire => ⟨_, exec_unpackByteStream wire s, fun heven => ?_⟩
  rw [unpackByteStream_of_even heven, unpackPairs_length]
  exact ⟨by omega, fun i lo hi => unpackPairs_getElem?⟩

/-- Settles O28: the number bit by bit, as a sum, and its width. -/
theorem decodeLe7ReturnsTheOrOfShiftedBytes : Obligations.DecodeLe7ReturnsTheOrOfShiftedBytes := by
  unfold Obligations.DecodeLe7ReturnsTheOrOfShiftedBytes
  exact fun s bs => ⟨_, exec_decodeLe7 bs s, testBit_decodeLe7 bs, decodeLe7_eq_le7Sum, decodeLe7_lt bs⟩

/-- Settles O29: a shift by three divides by 8 and the mask 7 keeps the remainder. -/
theorem portAndBitOfAPin : Obligations.PortAndBitOfAPin := by
  unfold Obligations.PortAndBitOfAPin
  exact fun s pin => ⟨_, _, portOf_toNat pin, bitOf_toNat pin, exec_portOfBitOf pin s⟩

/-- Settles O30: the three round trips; a packed list is even, so unpacking is defined on it. -/
theorem codecRoundTrips : Obligations.CodecRoundTrips := by
  unfold Obligations.CodecRoundTrips
  refine ⟨fun v hv => ?_, fun l m => encode7pair_decode14, fun bs => ?_⟩
  · rw [decode14_encode7pair hv, BitVec.toNat_ofNat, Nat.mod_eq_of_lt (by omega)]
  · have heven : (packByteStream bs).length % 2 = 0 := by rw [packByteStream_length, Nat.mul_mod_right]
    rw [unpackByteStream_of_even heven, unpackPairs_packByteStream]

end Sys2Proof.Proofs
end

section
/-!
PROOFS. The invariant (R102, R103, R110, R113, R191): each of its clauses is kept by every effect an instruction can have,
and so by every step.
-/

open Sys2Proof Sys2Proof.Machine Sys2Proof.Claims

namespace Sys2Proof.Proofs

/-! ## The clauses of the invariant -/

theorem inv_iff {s : State} :
    State.Inv s ↔ s.rs.ok s.cfg = true ∧ outOk s.rs s.out = true ∧ pinModesOk s.board.pinModes = true ∧
      s.out.length ≤ s.pos := by
  simp [State.Inv, State.inv, and_assoc]

theorem full_eq_false_iff {cfg : Params} {acc : List Byte} :
    full cfg acc = false ↔ ∀ n, cfg.sysexMax = some n → acc.length < n := by
  unfold full
  split
  · next h => simp [h]
  · next n h => simp [h]

theorem ok_inSysex_iff {cfg : Params} {acc : List Byte} :
    (RState.inSysex acc).ok cfg = true ↔ bodyOk acc = true ∧ ∀ n, cfg.sysexMax = some n → acc.length ≤ n := by
  simp only [RState.ok, Bool.and_eq_true]
  split
  · next h => simp [h]
  · next n h => simp [h]

/-- While the reader has not failed the stream holds messages only (R191). -/
theorem outOk_of_running {r : RState} {out : List Event} (hr : r.st ≠ 3) : outOk r out = out.all Event.isMsg := by
  cases r with
  | idle | inSysex | inShort => rfl
  | halted => exact absurd rfl hr

/-! ## What every effect keeps -/

section

variable {i : Instr} {s t : State}

/-- A byte is appended only where it fits and is no end marker, and a command is its first byte's from the start. -/
theorem readerOk_of_effect (h : Effect i s t) (hs : s.rs.ok s.cfg = true) : t.rs.ok t.cfg = true := by
  cases h with
  | startSysex => exact ok_inSysex_iff.2 ⟨bodyOk_nil, fun n _ => Nat.zero_le n⟩
  | startShort b _ _ hb => simp [RState.ok, hb]
  | append acc b _ hrs hb hfull =>
    rw [hrs] at hs
    obtain ⟨hbody, -⟩ := ok_inSysex_iff.1 hs
    refine ok_inSysex_iff.2 ⟨by simp [bodyOk_append, hbody, hb], fun n hn => ?_⟩
    have hroom : acc.length < n := full_eq_false_iff.1 hfull n hn
    rw [List.length_append]
    exact hroom
  | store first cmd b _ hrs =>
    rw [hrs] at hs
    exact hs
  | deliver | fatal => rfl
  | call => exact hs

/-- A message is appended by a reader that goes on, a fatal event by one that halts with its cause. -/
theorem outOk_of_effect (h : Effect i s t) (hs : outOk s.rs s.out = true) : outOk t.rs t.out = true := by
  cases h with
  | startSysex _ hrs | startShort _ _ hrs | append _ _ _ hrs | store _ _ _ _ hrs =>
    rw [hrs] at hs
    exact hs
  | deliver m _ hrs =>
    rw [outOk_of_running (by rcases hrs with h | h <;> simp [h])] at hs
    simp only [State.deliver_rs, State.deliver_out, outOk, List.all_append, hs]
    rfl
  | fatal c _ hrs =>
    rw [outOk_of_running hrs] at hs
    simp [outOk, hs]
  | call => exact hs

theorem pinModes_of_effect (h : Effect i s t) : t.board.pinModes = s.board.pinModes := by
  cases h with
  | startSysex | startShort | append | store | fatal => rfl
  | deliver m => exact Board.update_pinModes _ _ m
  | call _ _ _ _ _ hb =>
    obtain ⟨-, -, -, -, hpins⟩ := hb
    exact hpins

/-- An effect appends one event at most, and consumes no symbol of its own. -/
theorem count_of_effect (h : Effect i s t) : t.out.length ≤ s.out.length + 1 ∧ t.pos = s.pos := by
  cases h with
  | startSysex | startShort | append | store | call => exact ⟨Nat.le_succ _, rfl⟩
  | deliver | fatal => exact ⟨by simp, rfl⟩

/-- An instruction keeps the invariant where its event is paid for with a symbol. -/
theorem inv_of_effect (h : Effect i s t) (hs : State.Inv s) (hcount : t.out.length ≤ t.pos) : State.Inv t := by
  obtain ⟨hreader, hout, hpins, -⟩ := inv_iff.1 hs
  exact inv_iff.2 ⟨readerOk_of_effect h hreader, outOk_of_effect h hout, (pinModes_of_effect h).symm ▸ hpins, hcount⟩

/-- A row run on a state in which the symbol has been consumed has its event paid for. -/
theorem inv_of_consumed (rest : List Stimulus) (hs : State.Inv s)
    (h : exec i { s with env := rest, pos := s.pos + 1 } = .next t) : State.Inv t := by
  obtain ⟨hreader, hout, hpins, hcount⟩ := inv_iff.1 hs
  have heffect := exec_effect h
  obtain ⟨hlen, hpos⟩ := count_of_effect heffect
  have hconsumed : State.Inv { s with env := rest, pos := s.pos + 1 } :=
    inv_iff.2 ⟨hreader, hout, hpins, Nat.le_succ_of_le hcount⟩
  refine inv_of_effect heffect hconsumed ?_
  rw [hpos]
  exact hlen.trans (Nat.succ_le_succ hcount)

/-- A call appends no event. -/
theorem inv_of_call (rest : List Stimulus) (hi : isCall i = true) (hs : State.Inv s)
    (h : exec i { s with env := rest } = .next t) : State.Inv t := by
  obtain ⟨-, -, -, hcount⟩ := inv_iff.1 hs
  have hobs := exec_call_observed hi h
  simp only [observed, Prod.mk.injEq] at hobs
  obtain ⟨-, hpos, hout⟩ := hobs
  refine inv_of_effect (exec_effect h) (s := { s with env := rest }) hs ?_
  rw [hpos, hout]
  exact hcount

end

/-- Settles O46: what the step runs keeps the invariant, a reset establishes it, and the rest changes nothing it reads. -/
theorem everyStepKeepsTheInvariant : Obligations.EveryStepKeepsTheInvariant := by
  unfold Obligations.EveryStepKeepsTheInvariant
  intro s t hs h
  obtain ⟨-, rfl⟩ | ⟨x, rest, ph, -, -, hx⟩ | ⟨x, rest, -, -, rfl⟩ | ⟨i, rest, -, hi, hx⟩ | ⟨up, rest, -, rfl⟩ |
    ⟨rest, -, rfl⟩ := step_next h
  · exact hs
  · exact inv_of_consumed rest hs hx
  · exact hs
  · exact inv_of_call rest hi hs hx
  · exact hs
  · exact inv_of_idle_of_out_nil rfl rfl rfl

end Sys2Proof.Proofs
end

section
/-!
PROOFS. The rows of the reader, one equation each (R101 to R110), the step that runs them (R100, R112, R214), and the
messages that they complete or leave incomplete (R104, R106, R115).
-/

open Sys2Proof Sys2Proof.Machine Sys2Proof.Claims

namespace Sys2Proof.Proofs

section

variable {s : State}

/-! ## One row each -/

theorem exec_sysexStart (hrs : s.rs = .idle) : exec .sysexStart s = .next { s with rs := .inSysex [] } := by
  simp [exec, execSysexStart, hrs]

theorem exec_shortStart {b : Byte} (hrs : s.rs = .idle) (hb : b ≠ Wire.sysexStart) :
    exec (.shortStart b) s = .next { s with rs := .inShort b (cmdOf b) .two } := by
  simp [exec, execShortStart, hrs, hb]

theorem exec_sysexData {acc : List Byte} {b : Byte} (hrs : s.rs = .inSysex acc) (hb : b ≠ Wire.sysexEnd)
    (hf : full s.cfg acc = false) : exec (.sysexData b) s = .next { s with rs := .inSysex (acc ++ [b]) } := by
  simp [exec, execSysexData, hrs, hb, hf]

theorem exec_sysexOverflow {acc : List Byte} {b : Byte} (hrs : s.rs = .inSysex acc) (hb : b ≠ Wire.sysexEnd)
    (hf : full s.cfg acc = true) : exec (.sysexOverflow b) s = .next (s.raiseFatal .accOverflow) := by
  simp [exec, execSysexOverflow, hrs, hb, hf]

theorem exec_sysexEnd {acc : List Byte} (hrs : s.rs = .inSysex acc) :
    exec .sysexEnd s = .next (s.deliver (decodeSysex acc)) := by
  simp [exec, execSysexEnd, hrs]

theorem exec_shortData0 {first cmd : Byte} (hrs : s.rs = .inShort first cmd .two) (b : Byte) :
    exec (.shortData0 b) s = .next { s with rs := .inShort first cmd (.one b) } := by
  simp [exec, execShortData0, hrs]

theorem exec_shortData1 {first cmd d0 : Byte} (hrs : s.rs = .inShort first cmd (.one d0)) (b : Byte) :
    exec (.shortData1 b) s = .next (s.deliver (decodeShort first cmd d0 b)) := by
  simp [exec, execShortData1, hrs]

theorem exec_errIdle (hrs : s.rs = .idle) : exec .errIdle s = .next (s.raiseFatal .transportError) := by
  simp [exec, execErrIdle, hrs]

theorem exec_errInSysex {acc : List Byte} (hrs : s.rs = .inSysex acc) :
    exec .errInSysex s = .next (s.raiseFatal .malformedFrame) := by
  simp [exec, execErrInSysex, hrs]

theorem exec_errInShort {first cmd : Byte} {n : Remaining} (hrs : s.rs = .inShort first cmd n) :
    exec .errInShort s = .next (s.raiseFatal .malformedFrame) := by
  simp [exec, execErrInShort, hrs]

/-! ## The steps that run no row -/

theorem step_wait (he : s.env = []) : step s = .next s := by
  simp [step, fetch, he]

theorem step_ignored {x : Symbol} {rest : List Stimulus} (hp : s.phase = none) (he : s.env = .sym x :: rest) :
    step s = .next { s with env := rest } := by
  simp [step, fetch, he, hp]

theorem step_txLine {up : Bool} {rest : List Stimulus} (he : s.env = .txLine up :: rest) :
    step s = .next { s with env := rest, txUp := up } := by
  simp [step, fetch, he]

end

/-- The command of R102: the high nibble of a byte below `0xF0`, any other byte whole. -/
theorem cmdOf_eq (b : Byte) : cmdOf b = if b.toNat < 0xF0 then b &&& 0xF0 else b := rfl

/-- An accumulator at its bound is full (R110). -/
theorem full_of_bound {cfg : Params} {acc : List Byte} (h : cfg.sysexMax = some acc.length) : full cfg acc = true := by
  simp [full, h]

/-! ## The obligations -/

/-- Settles O5: either symbol and the row of the message it completes deliver what the decoder answers. -/
theorem lastSymbolRunsTheMessageRow : Obligations.LastSymbolRunsTheMessageRow := by
  unfold Obligations.LastSymbolRunsTheMessageRow
  constructor
  · intro s acc hrs
    rw [exec_sysexEnd hrs, exec_sysexRow hrs]
  · intro s first d0 b hf hrs
    obtain ⟨i, hi, hbytes, -, hstage, -⟩ := shortRow_eq_some (first := first) hf d0 b
    refine ⟨i, hi, ?_⟩
    rw [exec_shortData1 hrs, exec_shortFirst hstage hbytes, completeShort_eq _ hrs]

/-- Settles O48: the run of the bytes that did arrive, each a step of its own. -/
theorem incompleteMessageWaits : Obligations.IncompleteMessageWaits := by
  unfold Obligations.IncompleteMessageWaits
  refine ⟨fun s acc tail hrs hmax hacc he => ?_, fun s first d0 tail hrs hf => ⟨fun he => ?_, fun he => ?_⟩⟩
  · have hbody := runFor_sysexBody (tail := tail) (s := { s with
      rs := .inSysex [], pos := s.pos + 1, env := presents (acc.map .byte) ++ tail }) rfl hmax hacc rfl
    refine (runFor_next (step_startMarker hrs he)).trans (hbody.trans ?_)
    simp [Nat.add_assoc, Nat.add_comm 1]
  · exact runFor_next (step_shortStart hrs hf he)
  · exact (runFor_next (step_shortStart hrs hf he)).trans (runFor_next (step_shortData0 rfl rfl))

/-- Settles O3: the two quiet steps, a halted reader being one with no phase. -/
theorem waitingAndHaltedReadersStay : Obligations.WaitingAndHaltedReadersStay := by
  unfold Obligations.WaitingAndHaltedReadersStay
  exact ⟨fun _ => step_wait, fun s c x rest hrs he => step_ignored (phase_eq_none.2 ⟨c, hrs⟩) he⟩

/-- Settles O4: the step by its stimulus, a call by whether a caller can invoke it. -/
theorem stepRunsTheDecodedInstruction : Obligations.StepRunsTheDecodedInstruction := by
  unfold Obligations.StepRunsTheDecodedInstruction
  refine ⟨fun s x rest ph he hp => step_sym he hp, fun s i rest he hi => ?_, fun s i rest he hi => ?_,
    fun s up rest he => step_txLine he⟩
  · simp [step_call he, hi]
  · simp [step_call he, hi]

/-- Settles O6: the two rows of an idle reader. -/
theorem idleSymbolOpensAMessage : Obligations.IdleSymbolOpensAMessage := by
  unfold Obligations.IdleSymbolOpensAMessage
  intro s hrs
  refine ⟨exec_sysexStart hrs, fun b hb => ?_⟩
  rw [← cmdOf_eq]
  exact exec_shortStart hrs hb

/-- Settles O7: below the bound the accumulator is not full. -/
theorem continuationByteIsAppended : Obligations.ContinuationByteIsAppended := by
  unfold Obligations.ContinuationByteIsAppended
  intro s acc b hrs hb hroom
  exact exec_sysexData hrs hb (full_eq_false_iff.2 hroom)

/-- Settles O8: at the bound the accumulator is full, which selects the row and is its condition. -/
theorem fullAccumulatorOverflows : Obligations.FullAccumulatorOverflows := by
  unfold Obligations.FullAccumulatorOverflows
  intro s acc b hrs hb hmax
  have hfull : full s.cfg acc = true := full_of_bound hmax
  replace hb : b ≠ Wire.sysexEnd := hb
  exact ⟨by simp [State.phase, hrs, hfull, decodeSymbol, hb], exec_sysexOverflow hrs hb hfull⟩

/-- Settles O9: the delivery of the decoded accumulator, written out. -/
theorem endMarkerCompletesTheMessage : Obligations.EndMarkerCompletesTheMessage := by
  unfold Obligations.EndMarkerCompletesTheMessage
  intro s acc hrs
  exact exec_sysexEnd hrs

/-- Settles O10: the row's equation, which asks nothing of the byte. -/
theorem firstDataByteIsStored : Obligations.FirstDataByteIsStored := by
  unfold Obligations.FirstDataByteIsStored
  intro s first cmd b hrs
  exact exec_shortData0 hrs b

/-- Settles O11: the delivery of the decoded three bytes, written out. -/
theorem secondDataByteCompletesTheMessage : Obligations.SecondDataByteCompletesTheMessage := by
  unfold Obligations.SecondDataByteCompletesTheMessage
  intro s first cmd d0 b hrs
  exact exec_shortData1 hrs b

/-- Settles O12: the fatal condition of each failing row, written out. -/
theorem transportFailureHaltsTheReader : Obligations.TransportFailureHaltsTheReader := by
  unfold Obligations.TransportFailureHaltsTheReader
  exact ⟨fun s hrs => exec_errIdle hrs, fun s acc hrs => exec_errInSysex hrs, fun s first cmd n hrs => exec_errInShort hrs⟩

end Sys2Proof.Proofs
end

section
/-!
PROOFS. The events of one step (R12, R113), and a halted reader's run (R112).
-/

open Sys2Proof Sys2Proof.Machine Sys2Proof.Claims

namespace Sys2Proof.Proofs

/-- A symbol read in a phase is counted, and appends one event in the rows that `emits` names and none in the others. -/
theorem readSymbol_appends {s : State} {ph : Phase} (hp : s.phase = some ph) (x : Symbol) :
    ∃ r es, readSymbol s.cfg (observed s) x = (r, s.pos + 1, s.out ++ es) ∧
      es.length = if emits (decodeSymbol ph x) then 1 else 0 := by
  obtain ⟨rs, pos, out, board, tx, ret, cfg, env, txUp, draws⟩ := s
  cases rs with
  | idle =>
    cases hp
    cases x with
    | err => exact ⟨_, [_], rfl, rfl⟩
    | byte b =>
      by_cases hb : b = Wire.sysexStart
      · exact ⟨.inSysex [], [], by simp [observed, readSymbol, hb], by simp [decodeSymbol, hb, emits]⟩
      · exact ⟨.inShort b (cmdOf b) .two, [], by simp [observed, readSymbol, hb], by simp [decodeSymbol, hb, emits]⟩
  | inSysex acc =>
    cases hp
    cases x with
    | err => exact ⟨_, [_], rfl, rfl⟩
    | byte b =>
      by_cases hb : b = Wire.sysexEnd
      · exact ⟨.idle, [.msg (decodeSysex acc)], by simp [observed, readSymbol, hb], by simp [decodeSymbol, hb, emits]⟩
      · cases hf : full cfg acc with
        | true =>
          exact ⟨.halted .accOverflow, [.fatal .accOverflow], by simp [observed, readSymbol, hb, hf],
            by simp [decodeSymbol, hb, emits]⟩
        | false =>
          exact ⟨.inSysex (acc ++ [b]), [], by simp [observed, readSymbol, hb, hf],
            by simp [decodeSymbol, hb, emits]⟩
  | inShort first cmd cnt =>
    cases cnt with
    | two =>
      cases hp
      cases x with
      | err => exact ⟨_, [_], rfl, rfl⟩
      | byte b => exact ⟨.inShort first cmd (.one b), [], by simp [observed, readSymbol], rfl⟩
    | one d0 => cases hp; cases x <;> exact ⟨_, [_], rfl, rfl⟩
  | halted c => cases hp

/-- A step that reads no symbol and is no reset leaves all that the reader is observed by. -/
theorem step_observed_of_unread {s t : State} (hsym : ∀ x, s.env.head? = some (.sym x) → s.phase = none)
    (hrst : s.env.head? ≠ some .rst) (h : step s = .next t) : observed t = observed s := by
  obtain ⟨-, rfl⟩ | ⟨x, rest, ph, he, hp, -⟩ | ⟨x, rest, -, -, rfl⟩ | ⟨i, rest, -, hi, hx⟩ | ⟨up, rest, -, rfl⟩ |
    ⟨rest, he, -⟩ := step_next h
  · rfl
  · have hnone : s.phase = none := hsym x (by simp [he])
    cases hnone.symm.trans hp
  · rfl
  · exact exec_call_observed (s := { s with env := rest }) hi hx
  · rfl
  · simp [he] at hrst

/-- Settles O51: a read symbol by its row, any other step by what it leaves alone. -/
theorem oneEventAtMostPerSymbol : Obligations.OneEventAtMostPerSymbol := by
  unfold Obligations.OneEventAtMostPerSymbol
  constructor
  · intro s t x rest ph he hp h
    rw [step_sym he hp] at h
    obtain ⟨r, es, hread, hlen⟩ := readSymbol_appends hp x
    have hobs : observed t = (r, s.pos + 1, s.out ++ es) := (exec_decodeSymbol_observed hp h).trans hread
    simp only [observed, Prod.mk.injEq] at hobs
    obtain ⟨-, hpos, hout⟩ := hobs
    exact ⟨hpos, es, hout, hlen⟩
  · intro s t hsym hrst h
    have hobs := step_observed_of_unread hsym hrst h
    simp only [observed, Prod.mk.injEq] at hobs
    obtain ⟨-, hpos, hout⟩ := hobs
    exact ⟨hout, hpos⟩

/-- A halted reader reads nothing, so a step without `rst` leaves it halted. -/
theorem step_halted {s t : State} {c : Cause} (hrs : s.rs = .halted c) (hrst : .rst ∉ s.env) (h : step s = .next t) :
    observed t = observed s ∧ t.env = s.env.tail :=
  ⟨step_observed_of_unread (fun _ _ => phase_eq_none.2 ⟨c, hrs⟩) (fun hr => hrst (List.mem_of_mem_head? hr)) h,
    (step_keeps_foretold hrst h).1⟩

/-- Settles O49: the run's steps one by one (`step_halted`). -/
theorem haltedReaderNeverMoves : Obligations.HaltedReaderNeverMoves := by
  unfold Obligations.HaltedReaderNeverMoves
  intro k
  induction k with
  | zero =>
    intro s t c _ _ h
    cases h
    rfl
  | succ k ih =>
    intro s t c hrs hrst h
    obtain ⟨u, hu, hrun⟩ := runFor_succ_next h
    obtain ⟨hobs, henv⟩ := step_halted hrs hrst hu
    have hru : u.rs = .halted c := (congrArg Prod.fst hobs).trans hrs
    have hrstu : .rst ∉ u.env := fun hm => hrst (List.mem_of_mem_tail (henv ▸ hm))
    exact (ih u t c hru hrstu hrun).trans hobs

end Sys2Proof.Proofs
end

section
/-!
PROOFS. The sysex decoder (spec/42_decoder_sysex.md): its rules R121 to R128 as one relation, which is its graph, and what
each sysex row delivers by them; with `decode_short` (R140, R143), what decodes to `Unknown`.
-/

open Sys2Proof Sys2Proof.Machine Sys2Proof.Claims

namespace Sys2Proof.Proofs

/-! ## The capability grammar (R123) -/

/-- A payload parses as some lists exactly when it is the bytes of those lists and no mode is the terminator. -/
theorem parseCaps_eq_some_iff {p : List Byte} {pins : List (List (Byte × Byte))} :
    parseCaps p = some pins ↔ (∀ l ∈ pins, ∀ e ∈ l, e.1 ≠ 127) ∧ p = capsBytes pins := by
  constructor
  · intro h
    obtain ⟨ps, hmodes, rfl, hp⟩ := parseCapsFrom_eq_some p [] [] pins h (by simp)
    exact ⟨hmodes, hp⟩
  · rintro ⟨hmodes, rfl⟩
    exact parseCapsFrom_capsBytes hmodes []

/-! ## The decoder's rules -/

/-- What a completed sysex message decodes to, one constructor per rule of R121 to R128: each subtype's fitting payload and
its misfits (R57, R128). `decodeSysex_eq_iff` ties it to the model. -/
inductive SysexDecodes : List Byte → DecodedMessage → Prop where
  | empty : SysexDecodes [] (.unknown [])
  | firmware (major minor : Byte) {name : List Byte} (h : name.length % 2 = 0) :
      SysexDecodes (0x79 :: major :: minor :: name) (.firmwareReport major minor (unpackPairs name))
  | firmwareMisfit {p : List Byte} (h : p.length < 2 ∨ p.length % 2 = 1) :
      SysexDecodes (0x79 :: p) (.unknown (0x79 :: p))
  | caps {p : List Byte} {pins : List (List (Byte × Byte))} (h : parseCaps p = some pins) :
      SysexDecodes (0x6C :: p) (.capabilityReport pins)
  | capsMisfit {p : List Byte} (h : parseCaps p = none) : SysexDecodes (0x6C :: p) (.unknown (0x6C :: p))
  | amap (p : List Byte) : SysexDecodes (0x6A :: p) (.analogMappingReport p)
  | pinState (pin mode : Byte) (state : List Byte) :
      SysexDecodes (0x6E :: pin :: mode :: state) (.pinStateReport pin mode (decodeLe7 state))
  | pinStateMisfit {p : List Byte} (h : p.length < 2) : SysexDecodes (0x6E :: p) (.unknown (0x6E :: p))
  | i2cReply (a0 a1 r0 r1 : Byte) {payload : List Byte} (h : payload.length % 2 = 0) :
      SysexDecodes (0x77 :: a0 :: a1 :: r0 :: r1 :: payload)
        (.i2cReply (decode14 a0 a1) (decode14 r0 r1) (unpackPairs payload))
  | i2cReplyMisfit {p : List Byte} (h : p.length < 4 ∨ p.length % 2 = 1) :
      SysexDecodes (0x77 :: p) (.unknown (0x77 :: p))
  | other {sub : Byte} (h : sub ∉ ([0x79, 0x6C, 0x6A, 0x6E, 0x77] : List Byte)) (p : List Byte) :
      SysexDecodes (sub :: p) (.unknown (sub :: p))

/-- A subtype byte that is none of the five decoded ones (R127). -/
theorem decodeSysex_other {sub : Byte} (h : sub ∉ ([0x79, 0x6C, 0x6A, 0x6E, 0x77] : List Byte)) (p : List Byte) :
    decodeSysex (sub :: p) = .unknown (sub :: p) := by
  simp only [List.mem_cons, List.not_mem_nil, or_false, not_or] at h
  obtain ⟨hfirmware, hcaps, hamap, hpinState, hi2cReply⟩ := h
  exact (if_neg hfirmware).trans <| (if_neg hcaps).trans <| (if_neg hamap).trans <| (if_neg hpinState).trans <|
    if_neg hi2cReply

/-- The decoder answers what a rule says. -/
theorem SysexDecodes.decodeSysex_eq {acc : List Byte} {m : DecodedMessage} (h : SysexDecodes acc m) :
    decodeSysex acc = m := by
  cases h with
  | empty | amap | pinState => rfl
  | firmware _ _ h | i2cReply _ _ _ _ h => exact if_pos h
  | caps h | capsMisfit h => exact (decodeSysex_caps _).trans (by rw [decodeCaps, h] <;> rfl)
  | other h p => exact decodeSysex_other h p
  | @firmwareMisfit p h =>
    match p with
    | [] | [_] => rfl
    | _ :: _ :: name => exact if_neg (by simp at h; omega)
  | @pinStateMisfit p h =>
    match p with
    | [] | [_] => rfl
    | _ :: _ :: _ => simp at h
  | @i2cReplyMisfit p h =>
    match p with
    | [] | [_] | [_, _] | [_, _, _] => rfl
    | _ :: _ :: _ :: _ :: payload => exact if_neg (by simp at h; omega)

/-- Every accumulator has a rule. -/
theorem exists_sysexDecodes (acc : List Byte) : ∃ m, SysexDecodes acc m := by
  cases acc with
  | nil => exact ⟨_, .empty⟩
  | cons sub p =>
    by_cases hother : sub ∉ ([0x79, 0x6C, 0x6A, 0x6E, 0x77] : List Byte)
    · exact ⟨_, .other hother p⟩
    simp only [List.mem_cons, List.not_mem_nil, or_false, not_not] at hother
    rcases hother with rfl | rfl | rfl | rfl | rfl
    · by_cases h : p.length < 2 ∨ p.length % 2 = 1
      · exact ⟨_, .firmwareMisfit h⟩
      match p with
      | [] | [_] => simp at h
      | major :: minor :: name => exact ⟨_, .firmware major minor (by simp at h; omega)⟩
    · cases h : parseCaps p with
      | none => exact ⟨_, .capsMisfit h⟩
      | some pins => exact ⟨_, .caps h⟩
    · exact ⟨_, .amap p⟩
    · match p with
      | [] | [_] => exact ⟨_, .pinStateMisfit (by simp)⟩
      | pin :: mode :: state => exact ⟨_, .pinState pin mode state⟩
    · by_cases h : p.length < 4 ∨ p.length % 2 = 1
      · exact ⟨_, .i2cReplyMisfit h⟩
      match p with
      | [] | [_] | [_, _] | [_, _, _] => simp at h
      | a0 :: a1 :: r0 :: r1 :: payload => exact ⟨_, .i2cReply a0 a1 r0 r1 (by simp at h; omega)⟩

/-- The rules are the graph of the decoder. -/
theorem decodeSysex_eq_iff {acc : List Byte} {m : DecodedMessage} : decodeSysex acc = m ↔ SysexDecodes acc m := by
  refine ⟨fun h => ?_, SysexDecodes.decodeSysex_eq⟩
  obtain ⟨m', hm'⟩ := exists_sysexDecodes acc
  rwa [← h, hm'.decodeSysex_eq]

/-! ## The row of a message delivers what its rule says -/

theorem SysexDecodes.exec_sysexRow {acc : List Byte} {m : DecodedMessage} {s : State} (h : SysexDecodes acc m)
    (hrs : s.rs = .inSysex acc) : exec (sysexRow acc) s = .next (s.deliver m) := by
  rw [Proofs.exec_sysexRow hrs, h.decodeSysex_eq]

/-- A capability response fills its table the first time only (R174). -/
theorem update_capabilityReport (b : Board) (cfg : Params) (pins : List (List (Byte × Byte))) :
    b.update cfg (.capabilityReport pins) = { b with captable := some (b.captable.getD pins) } := by
  obtain ⟨captable⟩ := b
  cases captable <;> rfl

/-- An analog mapping response fills its table the first time only (R175). -/
theorem update_analogMappingReport (b : Board) (cfg : Params) (map : List Byte) :
    b.update cfg (.analogMappingReport map) = { b with amap := some (b.amap.getD (map.map (amapEntry cfg))) } := by
  obtain ⟨_, amap⟩ := b
  cases amap <;> rfl

theorem amapEntry_eq (cfg : Params) (e : Byte) :
    amapEntry cfg e = if e = cfg.unmapped then AmapEntry.unmapped else AmapEntry.channel e := by
  simp [amapEntry, isUnmapped]

/-- Settles O18: the lists parse back, by the grammar. -/
theorem capabilityListsAreDeliveredPerPin : Obligations.CapabilityListsAreDeliveredPerPin := by
  unfold Obligations.CapabilityListsAreDeliveredPerPin
  intro s pins hmodes hrs
  have hparse := parseCaps_eq_some_iff.2 ⟨hmodes, rfl⟩
  rw [← update_capabilityReport s.board s.cfg]
  exact (SysexDecodes.caps hparse).exec_sysexRow hrs

/-- Settles O19: the payload parses, and then it is the bytes of what it parsed as, or it is the bytes of no lists. -/
theorem capabilityPayloadTilesOrIsUnknown : Obligations.CapabilityPayloadTilesOrIsUnknown := by
  unfold Obligations.CapabilityPayloadTilesOrIsUnknown
  intro s p hrs
  cases hparse : parseCaps p with
  | some pins =>
    obtain ⟨hmodes, hp⟩ := parseCaps_eq_some_iff.1 hparse
    exact .inl ⟨pins, hmodes, hp, _, (SysexDecodes.caps hparse).exec_sysexRow hrs, rfl⟩
  | none =>
    refine .inr ⟨fun pins hmodes hp => ?_, (SysexDecodes.capsMisfit hparse).exec_sysexRow hrs⟩
    cases hparse.symm.trans (parseCaps_eq_some_iff.2 ⟨hmodes, hp⟩)

/-- Settles O17: the rules for a firmware report, delivered to BoardState. -/
theorem firmwareReportIsUnpackedOrUnknown : Obligations.FirmwareReportIsUnpackedOrUnknown := by
  unfold Obligations.FirmwareReportIsUnpackedOrUnknown
  exact ⟨fun s major minor name hrs heven => (SysexDecodes.firmware major minor heven).exec_sysexRow hrs,
    fun s p hrs hmisfit => (SysexDecodes.firmwareMisfit hmisfit).exec_sysexRow hrs⟩

/-- Settles O20: the table's entries are those of `is_unmapped` (R124). -/
theorem analogMappingFillsItsTableOnce : Obligations.AnalogMappingFillsItsTableOnce := by
  unfold Obligations.AnalogMappingFillsItsTableOnce
  intro s p hrs
  simp only [← amapEntry_eq]
  rw [← update_analogMappingReport s.board s.cfg]
  exact (SysexDecodes.amap p).exec_sysexRow hrs

/-- Settles O21: the rules for a pin state response, which update no table. -/
theorem pinStateReportIsAnIntegerOrUnknown : Obligations.PinStateReportIsAnIntegerOrUnknown := by
  unfold Obligations.PinStateReportIsAnIntegerOrUnknown
  exact ⟨fun s pin mode state hrs => (SysexDecodes.pinState pin mode state).exec_sysexRow hrs,
    fun s p hrs hmisfit => (SysexDecodes.pinStateMisfit hmisfit).exec_sysexRow hrs⟩

/-- Settles O22: the rules for an I2C reply, which update no table. -/
theorem i2cReplyIsDecodedOrUnknown : Obligations.I2cReplyIsDecodedOrUnknown := by
  unfold Obligations.I2cReplyIsDecodedOrUnknown
  exact ⟨fun s a0 a1 r0 r1 payload hrs heven => (SysexDecodes.i2cReply a0 a1 r0 r1 heven).exec_sysexRow hrs,
    fun s p hrs hmisfit => (SysexDecodes.i2cReplyMisfit hmisfit).exec_sysexRow hrs⟩

theorem sysexRow_other {sub : Byte} (h : sub ∉ Wire.namedSubtypes) (p : List Byte) :
    sysexRow (sub :: p) = .sysexOther sub p := by
  simp only [Wire.namedSubtypes, List.mem_cons, List.not_mem_nil, or_false, not_or] at h
  simp [sysexRow, h]

/-- Settles O23: one rule for every subtype that is not decoded, and the rule of the empty message. -/
theorem otherSubtypesAreUnknown : Obligations.OtherSubtypesAreUnknown := by
  unfold Obligations.OtherSubtypesAreUnknown
  refine ⟨fun s p row hrow hrs => ?_, fun s sub p hsub hrs => ?_, fun s hrs => SysexDecodes.empty.exec_sysexRow hrs⟩
  · simp only [List.mem_cons, List.not_mem_nil, or_false] at hrow
    rcases hrow with rfl | rfl | rfl | rfl | rfl | rfl <;>
      exact (SysexDecodes.other (by simp) p).exec_sysexRow hrs
  · have hother : sub ∉ ([0x79, 0x6C, 0x6A, 0x6E, 0x77] : List Byte) := fun hmem =>
      hsub ((by decide : ([0x79, 0x6C, 0x6A, 0x6E, 0x77] : List Byte) ⊆ _) hmem)
    rw [← sysexRow_other hsub]
    exact (SysexDecodes.other hother p).exec_sysexRow hrs

/-! ## What decodes to `Unknown` (R129, R144) -/

/-- An `Unknown` carries all the bytes, and they fit none of the five layouts. -/
theorem SysexDecodes.unknown {acc raw : List Byte} (h : SysexDecodes acc (.unknown raw)) :
    raw = acc ∧ ∀ (sub : Byte) (p : List Byte), acc = sub :: p →
      (sub = 0x79 → p.length < 2 ∨ p.length % 2 = 1) ∧ (sub = 0x6C → parseCaps p = none) ∧ sub ≠ 0x6A ∧
      (sub = 0x6E → p.length < 2) ∧ (sub = 0x77 → p.length < 4 ∨ p.length % 2 = 1) := by
  cases h with
  | empty => exact ⟨rfl, nofun⟩
  | firmwareMisfit h | capsMisfit h | pinStateMisfit h | i2cReplyMisfit h =>
    refine ⟨rfl, ?_⟩
    rintro sub p ⟨⟩
    simpa using h
  | other h =>
    refine ⟨rfl, ?_⟩
    rintro sub p ⟨⟩
    simp only [List.mem_cons, List.not_mem_nil, or_false, not_or] at h
    obtain ⟨hfirmware, hcaps, hamap, hpinState, hi2cReply⟩ := h
    exact ⟨(absurd · hfirmware), (absurd · hcaps), hamap, (absurd · hpinState), (absurd · hi2cReply)⟩

/-- No rule of the sysex path gives a message of the short path. -/
theorem SysexDecodes.not_short {acc : List Byte} {m : DecodedMessage} (h : SysexDecodes acc m) :
    (∀ pin v, m ≠ .analogValue pin v) ∧ ∀ a b, m ≠ .protocolVersion a b := by
  cases h <;> exact ⟨nofun, nofun⟩

/-- The short path by its command (R141 to R143). -/
theorem decodeShort_cases (first cmd d0 d1 : Byte) :
    (cmd = 0xE0 ∧ decodeShort first cmd d0 d1 = .analogValue (loNibble first) (decode14 d0 d1)) ∨
    (cmd = 0xF9 ∧ decodeShort first cmd d0 d1 = .protocolVersion d0 d1) ∨
    ((cmd ≠ 0xE0 ∧ cmd ≠ 0xF9) ∧ decodeShort first cmd d0 d1 = .unknown [first, d0, d1]) := by
  by_cases hanalog : cmd = 0xE0
  · exact .inl ⟨hanalog, if_pos hanalog⟩
  by_cases hversion : cmd = 0xF9
  · exact .inr (.inl ⟨hversion, (if_neg hanalog).trans (if_pos hversion)⟩)
  · exact .inr (.inr ⟨⟨hanalog, hversion⟩, (if_neg hanalog).trans (if_neg hversion)⟩)

theorem decodeShort_unknown_iff (first cmd d0 d1 : Byte) :
    (∃ raw, decodeShort first cmd d0 d1 = .unknown raw) ↔ cmd ≠ 0xE0 ∧ cmd ≠ 0xF9 := by
  rcases decodeShort_cases first cmd d0 d1 with ⟨rfl, h⟩ | ⟨rfl, h⟩ | ⟨hcmd, h⟩
  · exact ⟨fun ⟨_, hraw⟩ => (nomatch hraw.symm.trans h), fun hcmd => absurd rfl hcmd.1⟩
  · exact ⟨fun ⟨_, hraw⟩ => (nomatch hraw.symm.trans h), fun hcmd => absurd rfl hcmd.2⟩
  · exact ⟨fun _ => hcmd, fun _ => ⟨_, h⟩⟩

theorem decodeShort_unknown {first cmd d0 d1 : Byte} {raw : List Byte}
    (hraw : decodeShort first cmd d0 d1 = .unknown raw) : raw = [first, d0, d1] := by
  rcases decodeShort_cases first cmd d0 d1 with ⟨-, h⟩ | ⟨-, h⟩ | ⟨-, h⟩ <;> cases hraw.symm.trans h
  rfl

/-- The short path gives no message of the sysex path. -/
theorem decodeShort_not_sysex (first cmd d0 d1 : Byte) :
    (∀ a b n, decodeShort first cmd d0 d1 ≠ .firmwareReport a b n) ∧
    (∀ pins, decodeShort first cmd d0 d1 ≠ .capabilityReport pins) ∧
    (∀ map, decodeShort first cmd d0 d1 ≠ .analogMappingReport map) ∧
    (∀ pin mode state, decodeShort first cmd d0 d1 ≠ .pinStateReport pin mode state) ∧
    ∀ a r p, decodeShort first cmd d0 d1 ≠ .i2cReply a r p := by
  rcases decodeShort_cases first cmd d0 d1 with ⟨-, h⟩ | ⟨-, h⟩ | ⟨-, h⟩ <;> simp [h]

/-- Settles O24: the sysex clauses are the rules read from the answer and from the payload, the short clauses are the three
cases of the command. -/
theorem unknownExactlyWhenNothingFits : Obligations.UnknownExactlyWhenNothingFits := by
  unfold Obligations.UnknownExactlyWhenNothingFits
  refine ⟨SysexDecodes.empty.decodeSysex_eq, fun acc raw h => (decodeSysex_eq_iff.1 h).unknown, fun sub p h => ?_,
    fun acc => (decodeSysex_eq_iff.1 rfl).not_short, decodeShort_unknown_iff, fun _ _ _ _ _ => decodeShort_unknown,
    decodeShort_not_sysex⟩
  apply SysexDecodes.decodeSysex_eq
  rcases h with hother | ⟨rfl, hmisfit⟩ | ⟨rfl, hmisfit⟩ | ⟨rfl, hmisfit⟩ | ⟨rfl, hmisfit⟩
  · exact .other hother p
  · exact .firmwareMisfit hmisfit
  · exact .capsMisfit hmisfit
  · exact .pinStateMisfit hmisfit
  · exact .i2cReplyMisfit hmisfit

end Sys2Proof.Proofs
end

section
/-!
PROOFS. The short-message rows (spec/43_decoder_short.md): a row delivers what `decode_short` says for its command, and only
the commands `0xE0` and `0xF9` have a rule other than R143.
-/

open Sys2Proof Sys2Proof.Machine Sys2Proof.Claims

namespace Sys2Proof.Proofs

/-! ## A row delivers by its command -/

section

variable {i : Instr} {first cmd d0 d1 : Byte} {s : State}

/-- The row of a short message, in the state that selects it, delivers the decoder's result (R106, R140). -/
theorem exec_shortFirst_delivers (hstage : i.stage = .shortFirst) (hbytes : messageBytes i = [first, d0, d1])
    (hcmd : cmdOf first = cmd) (hrs : s.rs = .inShort first cmd (.one d0)) :
    exec i s = .next (s.deliver (decodeShort first cmd d0 d1)) := by
  subst hcmd
  rw [exec_shortFirst hstage hbytes, completeShort_eq _ hrs]

theorem decodeShort_of_undecoded (hcmd : cmd ≠ 0xE0 ∧ cmd ≠ 0xF9) :
    decodeShort first cmd d0 d1 = .unknown [first, d0, d1] := by
  obtain ⟨raw, hraw⟩ := (decodeShort_unknown_iff first cmd d0 d1).2 hcmd
  rw [hraw, decodeShort_unknown hraw]

/-- A command with no rule of its own: the three bytes are delivered, and `Unknown` updates no table (R143, R178). -/
theorem exec_shortFirst_unknown (hstage : i.stage = .shortFirst) (hbytes : messageBytes i = [first, d0, d1])
    (hcmd : cmdOf first = cmd) (hundecoded : cmd ≠ 0xE0 ∧ cmd ≠ 0xF9) (hrs : s.rs = .inShort first cmd (.one d0)) :
    exec i s = .next { s with rs := .idle, out := s.out ++ [.msg (.unknown [first, d0, d1])] } := by
  rw [exec_shortFirst_delivers hstage hbytes hcmd hrs, decodeShort_of_undecoded hundecoded]
  rfl

end

/-! ## Which commands have no rule of their own -/

/-- The command of a channel message below `0xE0` is its masked first byte, and no decoded one (R54). -/
theorem cmdOf_channel_undecoded : ∀ hi chan : Nibble, hi < 0xE →
    cmdOf (hi ++ chan) = (hi ++ chan) &&& 0xF0 ∧
      (hi ++ chan) &&& 0xF0 ≠ (0xE0 : Byte) ∧ (hi ++ chan) &&& 0xF0 ≠ (0xF9 : Byte) := by
  decide

/-- A first byte from `0xF0` is its own command (R54), never `0xE0`. -/
theorem cmdOf_wholeByte : ∀ first : Byte, 0xF0 ≤ first → cmdOf first = first ∧ first ≠ 0xE0 := by decide

/-! ## The obligations -/

/-- Settles O13: each row is the short row of its first byte, whose command is not decoded. -/
theorem channelRowsWithoutDecodeAreUnknown : Obligations.ChannelRowsWithoutDecodeAreUnknown := by
  unfold Obligations.ChannelRowsWithoutDecodeAreUnknown
  intro s c d0 d1 row hrow first hrs
  have hchannel : row.1 < 0xE ∧ row.2.stage = .shortFirst ∧ messageBytes row.2 = [row.1 ++ c, d0, d1] := by
    simp only [List.mem_cons, List.not_mem_nil, or_false] at hrow
    rcases hrow with rfl | rfl | rfl | rfl | rfl | rfl | rfl | rfl | rfl | rfl | rfl | rfl | rfl | rfl <;>
      exact ⟨by dsimp only; decide, rfl, rfl⟩
  obtain ⟨hhi, hstage, hbytes⟩ := hchannel
  obtain ⟨hcmd, hundecoded⟩ := cmdOf_channel_undecoded row.1 c hhi
  exact exec_shortFirst_unknown hstage hbytes hcmd hundecoded hrs

/-- Settles O14: each row is the short row of its first byte, which is its command and not `0xF9`. -/
theorem wholeByteRowsWithoutDecodeAreUnknown : Obligations.WholeByteRowsWithoutDecodeAreUnknown := by
  unfold Obligations.WholeByteRowsWithoutDecodeAreUnknown
  intro s d0 d1 row hrow hrs
  have hwhole : (0xF0 ≤ row.1 ∧ row.1 ≠ 0xF9) ∧ row.2.stage = .shortFirst ∧ messageBytes row.2 = [row.1, d0, d1] := by
    simp only [List.mem_cons, List.not_mem_nil, or_false] at hrow
    rcases hrow with rfl | rfl | rfl | rfl | rfl | rfl | rfl | rfl | rfl | rfl | rfl | rfl | rfl | rfl <;>
      exact ⟨by dsimp only; decide, rfl, rfl⟩
  obtain ⟨⟨hfrom, hversion⟩, hstage, hbytes⟩ := hwhole
  obtain ⟨hcmd, hanalog⟩ := cmdOf_wholeByte row.1 hfrom
  exact exec_shortFirst_unknown hstage hbytes hcmd ⟨hanalog, hversion⟩ hrs

/-- Settles O15: the value is `decode14`'s, an or that in protocol is a sum, and the pin is the low nibble. -/
theorem analogMessageDeliversItsValue : Obligations.AnalogMessageDeliversItsValue := by
  unfold Obligations.AnalogMessageDeliversItsValue
  intro s c d0 d1 hrs
  refine ⟨decode14 d0 d1, decode14_toNat d0 d1, fun hd0 _ => ?_, ?_⟩
  · rw [decode14_toNat, or_shift_seven _ hd0]
  · have hcmd : cmdOf (Byte.ofNibbles 0xE c) = 0xE0 := cmdOf_ofNibbles 0xE c (by decide)
    rw [← decode14_toNat, exec_shortFirst_delivers rfl rfl hcmd hrs, ← hcmd, decodeShort_analog, decodeAnalog,
      loNibble_ofNibbles]
    rfl

/-- Settles O16: the version is delivered and stored as the two bytes stand. -/
theorem versionMessageDeliversItsBytes : Obligations.VersionMessageDeliversItsBytes := by
  unfold Obligations.VersionMessageDeliversItsBytes
  intro s d0 d1 hrs
  have hversion : decodeShort 0xF9 0xF9 d0 d1 = .protocolVersion d0 d1 := rfl
  rw [exec_shortFirst_delivers rfl rfl (by decide) hrs, hversion]
  rfl

end Sys2Proof.Proofs
end

section
/-!
PROOFS. The companion encoder (spec/44_encoder_frames.md): what each operation sends and caches in terms of R151 to R161,
what a transport that accepts or fails makes of it, and that its frames are read back.
-/

open Sys2Proof Sys2Proof.Machine Sys2Proof.Claims

namespace Sys2Proof.Proofs

/-! ## The frames as bytes -/

theorem frameSetPinMode_eq (pin mode : Nat) :
    frameSetPinMode pin mode = [0xF4, BitVec.ofNat 8 (pin % 128), BitVec.ofNat 8 (mode % 128)] := by
  have hmask : ∀ n : Nat, n &&& 0x7F = n % 128 := fun n => Nat.and_two_pow_sub_one_eq_mod n 7
  rw [frameSetPinMode, hmask, hmask]
  rfl

/-- R81: two seven-bit bytes, exact on the values R81 supports. -/
theorem encode7pair_spec (value : Nat) :
    (encode7pair value).1.toNat < 128 ∧ (encode7pair value).2.toNat < 128 ∧
      (value ≤ 16383 → (encode7pair value).1.toNat = value % 128 ∧ (encode7pair value).2.toNat = value / 128) := by
  rw [encode7pair_fst_toNat, encode7pair_snd_toNat]
  omega

/-- The split of a byte is its low seven bits and its top bit (R81, R152). -/
theorem encode7pair_byte (b : Byte) : encode7pair b.toNat = (b &&& 0x7F, b >>> 7) := by
  revert b
  decide

theorem portOf_eq (pin : Byte) : portOf pin = BitVec.ofNat 8 (pin.toNat / 8) :=
  BitVec.eq_of_toNat_eq <| by rw [portOf_toNat, BitVec.toNat_ofNat, Nat.mod_eq_of_lt (by omega)]

theorem frameWriteDigital_eq (pin byte : Byte) :
    frameWriteDigital pin byte = [0x90 ||| BitVec.ofNat 8 (pin.toNat / 8), byte &&& 0x7F, byte >>> 7] := by
  rw [frameWriteDigital, encode7pair_byte, portOf_eq]
  rfl

/-- A channel is a pin of write analog, and the frame for it begins with the channel's own first byte (R51, R153). -/
theorem channel_as_pin : ∀ c : Nibble,
    (c.setWidth 8 : Byte).toNat ≤ 15 ∧ Wire.cmdAnalog ||| c.setWidth 8 = 0xE#4 ++ c := by decide

/-! ## One bit of a port byte (R152) -/

/-- The mask of a pin has the pin's bit and no other (R88). -/
theorem getLsbD_pinMask (pin : Byte) (j : Nat) :
    ((1 : Byte) <<< bitOf pin).getLsbD j = decide (j = pin.toNat % 8) := by
  have hbit : pin.toNat % 8 < 8 := Nat.mod_lt _ (by decide)
  change (BitVec.twoPow 8 (bitOf pin).toNat).getLsbD j = _
  rw [bitOf_toNat, BitVec.getLsbD_twoPow, decide_eq_true hbit, Bool.true_and]
  simp only [eq_comm]

/-- The pin's bit is the level, and every sibling bit is the old one. -/
theorem withPinBit_getLsbD (old pin level : Byte) {j : Nat} (hj : j < 8) :
    (withPinBit old pin level).getLsbD j =
      if j = pin.toNat % 8 then decide (level = 1) else old.getLsbD j := by
  by_cases hlevel : level = 1
  · rw [withPinBit, if_pos hlevel, decide_eq_true hlevel, BitVec.getLsbD_or, getLsbD_pinMask]
    split <;> simp [*]
  · rw [withPinBit, if_neg hlevel, decide_eq_false hlevel, BitVec.getLsbD_and, BitVec.getLsbD_not, getLsbD_pinMask]
    split <;> simp [*]

/-! ## What an operation does with its arguments in range -/

theorem exec_txSetPinMode (pin mode : Nat) (s : State) :
    exec (.txSetPinMode pin mode) s = .next (s.sendFrame (frameSetPinMode pin mode)) := rfl

/-- R152: the byte sent is the byte cached, the old one with the pin's bit written. -/
theorem exec_txWriteDigital {pin level : Byte} (hpin : pin.toNat ≤ 127) (hlevel : level.toNat ≤ 1) (s : State) :
    let port : Nibble := BitVec.ofNat 4 (pin.toNat / 8)
    let byte := withPinBit (s.board.port port) pin level
    exec (.txWriteDigital pin level) s =
      .next (s.sendCached (frameWriteDigital pin byte) (s.board.setPort port byte)) := by
  have hport : (portOf pin).setWidth 4 = BitVec.ofNat 4 (pin.toNat / 8) :=
    BitVec.eq_of_toNat_eq <| by rw [BitVec.toNat_setWidth, portOf_toNat, BitVec.toNat_ofNat]
  dsimp only
  rw [← hport]
  exact if_pos ⟨hpin, hlevel⟩

theorem exec_txWriteAnalog {pin : Byte} (hpin : pin.toNat ≤ 15) (value : Nat) (s : State) :
    exec (.txWriteAnalog pin value) s =
      .next (s.sendCached (frameWriteAnalog pin value) (s.board.setAnalog (BitVec.ofNat 4 pin.toNat) value)) :=
  if_pos hpin

theorem exec_txReportAnalog {pin enable : Byte} (hpin : pin.toNat ≤ 15) (henable : enable.toNat ≤ 1) (s : State) :
    exec (.txReportAnalog pin enable) s = .next (s.sendFrame [0xC0 ||| pin, enable]) := if_pos ⟨hpin, henable⟩

theorem exec_txReportDigital {port enable : Byte} (hport : port.toNat ≤ 15) (henable : enable.toNat ≤ 1) (s : State) :
    exec (.txReportDigital port enable) s = .next (s.sendFrame [0xD0 ||| port, enable]) := if_pos ⟨hport, henable⟩

theorem exec_txCapsQuery (s : State) : exec .txCapsQuery s = .next (s.sendFrame [0xF0, 0x6B, 0xF7]) := rfl

theorem exec_txAmapQuery (s : State) : exec .txAmapQuery s = .next (s.sendFrame [0xF0, 0x69, 0xF7]) := rfl

theorem exec_txI2cRequest (address regflags : List TxField) (payload : List Byte) (s : State) :
    exec (.txI2cRequest address regflags payload) s =
      .next (s.sendFrame
        (0xF0 :: 0x76 :: (fieldsBytes address ++ fieldsBytes regflags ++ packByteStream payload) ++ [0xF7])) := rfl

theorem exec_txI2cConfig (fields : List TxField) (s : State) :
    exec (.txI2cConfig fields) s = .next (s.sendFrame (0xF0 :: 0x78 :: fieldsBytes fields ++ [0xF7])) := rfl

theorem exec_txSamplingInterval (fields : List TxField) (s : State) :
    exec (.txSamplingInterval fields) s = .next (s.sendFrame (0xF0 :: 0x7A :: fieldsBytes fields ++ [0xF7])) := rfl

theorem exec_txPinStateQuery (fields : List TxField) (s : State) :
    exec (.txPinStateQuery fields) s = .next (s.sendFrame (0xF0 :: 0x6D :: fieldsBytes fields ++ [0xF7])) := rfl

/-- A failed write of an operation with a cache leaves the tables old or new, as the free value says (U16). -/
theorem exec_down_of_sendCached {i : Instr} {frame : List Byte} {new : Board} {s : State} (hdown : s.txUp = false)
    (h : exec i s = .next (s.sendCached frame new)) :
    ∃ b : Board,
      exec i s = .next { s with board := b, ret := s.ret ++ [.transportError], draws := s.draws + 1 } ∧
      (b = s.board ∨ b = new) := by
  rw [State.sendCached_down _ _ _ hdown] at h
  exact ⟨_, h, (ite_eq_or_eq _ new s.board).symm⟩

/-! ## Field bytes are in protocol (R156, R213) -/

theorem packByteStream_lt (bs : List Byte) : ∀ b ∈ packByteStream bs, b.toNat < 128 := by
  have hmask : ∀ b : Byte, (b &&& 0x7F).toNat < 128 := by decide
  induction bs with
  | nil => simp [packByteStream]
  | cons b bs ih => exact List.forall_mem_cons.2 ⟨hmask _, List.forall_mem_cons.2 ⟨hmask _, ih⟩⟩

theorem fieldBytes_lt {f : TxField} (h : ∀ b : Byte, f = .byte b → b.toNat < 128) :
    ∀ b ∈ fieldBytes f, b.toNat < 128 := by
  cases f with
  | byte b => exact List.forall_mem_singleton.2 (h b rfl)
  | wide value => exact pairBytes_lt value

theorem bodyOk_of_ne_endMarker {acc : List Byte} (h : ∀ b ∈ acc, b ≠ 0xF7) : bodyOk acc = true :=
  List.all_eq_true.2 fun b hb => decide_eq_true (h b hb)

/-! ## The obligations -/

/-- Settles O32: the byte is `withPinBit`'s, cached and sent whole. -/
theorem writeDigitalKeepsSiblingBits : Obligations.WriteDigitalKeepsSiblingBits := by
  unfold Obligations.WriteDigitalKeepsSiblingBits
  intro s pin level hup hpin hlevel port
  refine ⟨withPinBit (s.board.port port) pin level, fun j => withPinBit_getLsbD _ pin level, ?_⟩
  rw [exec_txWriteDigital hpin hlevel, State.sendCached_up _ _ _ hup, frameWriteDigital_eq]

/-- Settles O37: `encode7pair` splits what `decode14` joined, and the pin is the channel of the first byte. -/
theorem analogFrameReproducesTheMessage : Obligations.AnalogFrameReproducesTheMessage := by
  unfold Obligations.AnalogFrameReproducesTheMessage
  intro s c d0 d1 hup hd0 hd1
  have hdecode : decodeShort (0xE#4 ++ c) 0xE0 d0 d1 = .analogValue c (decode14 d0 d1) :=
    congrArg (DecodedMessage.analogValue · (decode14 d0 d1)) (loNibble_ofNibbles 0xE c)
  obtain ⟨hpin, hfirst⟩ := channel_as_pin c
  refine ⟨_, hdecode, _, exec_txWriteAnalog hpin _ s, ?_⟩
  rw [State.sendCached_up _ _ _ hup, frameWriteAnalog, encode7pair_decode14 hd0 hd1, hfirst]

/-- Settles O38: fields below 128 hold no end marker, and every field's bytes are below 128 by its own lemma. -/
theorem inProtocolFramesAreReadBackWhole : Obligations.InProtocolFramesAreReadBackWhole := by
  unfold Obligations.InProtocolFramesAreReadBackWhole
  refine ⟨fun sub fields hsub hfields => ?_, packByteStream_lt, fun fields hbytes b hb => ?_⟩
  · have hbody : bodyOk (sub :: fields) = true :=
      bodyOk_of_ne_endMarker (List.forall_mem_cons.2 ⟨hsub, fun b hb => ne_endMarker_of_lt (hfields b hb)⟩)
    simpa [sysexFrame] using decodeMessage_sysex hbody []
  · obtain ⟨f, hf, hbf⟩ := List.mem_flatMap.1 hb
    exact fieldBytes_lt (fun b hfb => hbytes b (hfb ▸ hf)) b hbf

/-- Settles O31: each frame as `sendFrame` appends it. -/
theorem shortFramesAreWritten : Obligations.ShortFramesAreWritten := by
  unfold Obligations.ShortFramesAreWritten
  refine fun s hup => ⟨fun pin mode => ?_, fun n enable hn henable => ⟨?_, ?_⟩⟩
  · rw [exec_txSetPinMode, State.sendFrame_up _ _ hup, frameSetPinMode_eq]
  · rw [exec_txReportAnalog hn henable, State.sendFrame_up _ _ hup]
  · rw [exec_txReportDigital hn henable, State.sendFrame_up _ _ hup]

/-- Settles O33: the two data bytes are `encode7pair`'s. -/
theorem writeAnalogSendsAndCaches : Obligations.WriteAnalogSendsAndCaches := by
  unfold Obligations.WriteAnalogSendsAndCaches
  intro s pin value hup hpin
  obtain ⟨hl, hm, hvalue⟩ := encode7pair_spec value
  refine ⟨_, _, hl, hm, hvalue, ?_⟩
  rw [exec_txWriteAnalog hpin, State.sendCached_up _ _ _ hup]
  rfl

/-- Settles O34: the fields' bytes by their definition, the frames as `sendFrame` appends them. -/
theorem sysexFramesAreWritten : Obligations.SysexFramesAreWritten := by
  unfold Obligations.SysexFramesAreWritten
  refine ⟨fun b => rfl, fun value => ⟨_, _, rfl, encode7pair_spec value⟩, ⟨fieldsBytes_nil, fieldsBytes_cons⟩,
    fun s hup => ⟨?_, ?_, fun address regflags payload => ?_, fun fields row hrow => ?_⟩⟩
  · rw [exec_txCapsQuery, State.sendFrame_up _ _ hup]
  · rw [exec_txAmapQuery, State.sendFrame_up _ _ hup]
  · rw [exec_txI2cRequest, State.sendFrame_up _ _ hup]
  · rw [← State.sendFrame_up _ _ hup]
    simp only [List.mem_cons, List.not_mem_nil, or_false] at hrow
    rcases hrow with rfl | rfl | rfl
    · exact exec_txI2cConfig fields s
    · exact exec_txSamplingInterval fields s
    · exact exec_txPinStateQuery fields s

/-- Settles O35: without a cache every operation is one `sendFrame`; with one, the free value picks the tables. -/
theorem failedWriteReportsAndSendsNothing : Obligations.FailedWriteReportsAndSendsNothing := by
  unfold Obligations.FailedWriteReportsAndSendsNothing
  refine fun s hdown => ⟨fun pin mode n enable address regflags fields payload hn henable i hi => ?_,
    fun pin level hpin hlevel => ?_, fun pin value hpin => ?_⟩
  · obtain ⟨frame, hsend⟩ : ∃ frame, exec i s = .next (s.sendFrame frame) := by
      simp only [List.mem_cons, List.not_mem_nil, or_false] at hi
      rcases hi with rfl | rfl | rfl | rfl | rfl | rfl | rfl | rfl | rfl
      exacts [⟨_, exec_txSetPinMode pin mode s⟩, ⟨_, exec_txReportAnalog hn henable s⟩,
        ⟨_, exec_txReportDigital hn henable s⟩, ⟨_, exec_txCapsQuery s⟩, ⟨_, exec_txAmapQuery s⟩,
        ⟨_, exec_txI2cRequest address regflags payload s⟩, ⟨_, exec_txI2cConfig fields s⟩,
        ⟨_, exec_txSamplingInterval fields s⟩, ⟨_, exec_txPinStateQuery fields s⟩]
    rw [hsend, State.sendFrame_down _ _ hdown]
  · obtain ⟨b, hsend, hb⟩ := exec_down_of_sendCached hdown (exec_txWriteDigital hpin hlevel s)
    exact ⟨b, hsend, hb.imp_right fun hnew => ⟨_, hnew, fun j => withPinBit_getLsbD _ pin level⟩⟩
  · exact exec_down_of_sendCached hdown (exec_txWriteAnalog hpin value s)

/-- Settles O36: the range is the guard of each operation. -/
theorem outOfRangeArgumentsAreRefused : Obligations.OutOfRangeArgumentsAreRefused := by
  unfold Obligations.OutOfRangeArgumentsAreRefused
  refine ⟨fun s pin level hout => if_neg ?_, fun s pin value hout => if_neg ?_, fun s n enable hout => ?_⟩
  · show ¬(pin.toNat ≤ 127 ∧ level.toNat ≤ 1)
    omega
  · omega
  · have hguard : ¬(n.toNat ≤ 15 ∧ enable.toNat ≤ 1) := by omega
    exact ⟨if_neg hguard, if_neg hguard⟩

/-- Settles O60: the entry named reads back, and the others by the caches' read-after-write lemmas. -/
theorem cacheWritesTouchOneEntry : Obligations.CacheWritesTouchOneEntry := by
  unfold Obligations.CacheWritesTouchOneEntry
  refine ⟨fun b p q v => ⟨?_, rfl⟩, fun b p q w => ⟨?_, rfl⟩⟩
  · split
    · next hq => rw [hq, Board.analog_setAnalog_same]
    · next hq => exact Board.analog_setAnalog_other b v hq
  · split
    · next hq => rw [hq, Board.port_setPort_same]
    · next hq => exact Board.port_setPort_other b w hq

end Sys2Proof.Proofs
end

section
/-!
PROOFS. The companion's capability and mapping tables are filled once (R174, R175, R179; decision D22): no decoded message
replaces a populated one, and nothing else but a reset touches them.
-/

open Sys2Proof Sys2Proof.Machine Sys2Proof.Claims

namespace Sys2Proof.Proofs

/-- What `old` holds of the two tables is in `new` as it was; `Obligations.TablesArePopulatedOnce` says this of the boards
before and after a step. -/
def KeepsTables (old new : Board) : Prop :=
  (∀ c, old.captable = some c → new.captable = some c) ∧ (∀ a, old.amap = some a → new.amap = some a)

theorem keepsTables_of_eq {old new : Board} (hcaps : new.captable = old.captable) (hamap : new.amap = old.amap) :
    KeepsTables old new :=
  ⟨fun _ => hcaps.trans, fun _ => hamap.trans⟩

/-- A report for a populated table leaves it (`update_capabilityReport`, `update_analogMappingReport`), and the other
messages are for neither table. -/
theorem keepsTables_update (b : Board) (cfg : Params) (m : DecodedMessage) : KeepsTables b (b.update cfg m) := by
  cases m with
  | capabilityReport pins =>
    rw [update_capabilityReport]
    exact ⟨fun c hc => by simp [hc], fun _ ha => ha⟩
  | analogMappingReport map =>
    rw [update_analogMappingReport]
    exact ⟨fun _ hc => hc, fun a ha => by simp [ha]⟩
  | firmwareReport | analogValue | protocolVersion | pinStateReport | i2cReply | unknown => exact keepsTables_of_eq rfl rfl

/-- Of an instruction's effects only a delivered message reaches the tables. -/
theorem keepsTables_of_effect {i : Instr} {s t : State} (h : Effect i s t) : KeepsTables s.board t.board := by
  cases h with
  | startSysex | startShort | append | store | fatal => exact keepsTables_of_eq rfl rfl
  | deliver m => exact keepsTables_update s.board s.cfg m
  | call _ _ _ _ _ hb =>
    obtain ⟨hcaps, hamap, -⟩ := hb
    exact keepsTables_of_eq hcaps hamap

/-- Settles O56: a step that runs an instruction by its effect, any other step but a reset by leaving the board alone. -/
theorem tablesArePopulatedOnce : Obligations.TablesArePopulatedOnce := by
  unfold Obligations.TablesArePopulatedOnce
  intro s t hrst h
  obtain ⟨-, rfl⟩ | ⟨x, rest, ph, -, -, hx⟩ | ⟨x, rest, -, -, rfl⟩ | ⟨i, rest, -, -, hx⟩ | ⟨up, rest, -, rfl⟩ |
    ⟨rest, he, -⟩ := step_next h
  · exact keepsTables_of_eq rfl rfl
  · exact keepsTables_of_effect (s := { s with env := rest, pos := s.pos + 1 }) (exec_effect hx)
  · exact keepsTables_of_eq rfl rfl
  · exact keepsTables_of_effect (s := { s with env := rest }) (exec_effect hx)
  · exact keepsTables_of_eq rfl rfl
  · simp [he] at hrst

end Sys2Proof.Proofs
end

section
/-!
PROOFS. The invariant along a run, and what it says of the output stream (R191, R21): a fatal event is emitted once, last,
and with the halt.
-/

open Sys2Proof Sys2Proof.Machine Sys2Proof.Claims

namespace Sys2Proof.Proofs

/-- A run that stops nowhere keeps what `everyStepKeepsTheInvariant` keeps. -/
theorem inv_of_runFor {k : Nat} {s t : State} (hs : State.Inv s) (h : runFor k s = .next t) : State.Inv t := by
  induction k generalizing s with
  | zero =>
    cases h
    exact hs
  | succ k ih =>
    obtain ⟨u, hu, hrun⟩ := runFor_succ_next h
    exact ih (everyStepKeepsTheInvariant s u hs hu) hrun

section

variable {ms : List Event}

theorem fatal_notMem_of_messages (hms : ∀ e ∈ ms, e.isMsg = true) (c : Cause) : .fatal c ∉ ms :=
  fun hmem => Bool.false_ne_true (hms _ hmem)

theorem fatals_of_messages (hms : ∀ e ∈ ms, e.isMsg = true) : fatals ms = 0 := by
  simpa [fatals] using hms

theorem fatals_append_fatal (hms : ∀ e ∈ ms, e.isMsg = true) (c : Cause) : fatals (ms ++ [.fatal c]) = 1 := by
  have hnone : (ms.filter fun e => !e.isMsg).length = 0 := fatals_of_messages hms
  rw [fatals, List.filter_append, List.length_append, hnone]
  rfl

end

/-- The stream holds messages only, or messages and then the fatal event of the reader's halt. -/
theorem messages_or_halted_of_outOk {r : RState} {out : List Event} (h : outOk r out = true) :
    (∀ e ∈ out, e.isMsg = true) ∨
      ∃ ms c, (∀ e ∈ ms, e.isMsg = true) ∧ out = ms ++ [.fatal c] ∧ r = .halted c := by
  cases r with
  | idle | inSysex | inShort => exact .inl (List.all_eq_true.1 h)
  | halted c =>
    simp only [outOk, Bool.and_eq_true, decide_eq_true_eq, List.all_eq_true] at h
    obtain ⟨hlast, hms⟩ := h
    obtain ⟨ms, rfl⟩ := List.getLast?_eq_some_iff.1 hlast
    rw [List.dropLast_concat] at hms
    exact .inr ⟨ms, c, hms, rfl, rfl⟩

/-- Settles O50: the run's last state meets the invariant, so its stream has one of the two shapes of
`messages_or_halted_of_outOk`. -/
theorem fatalEventIsOnceAndLast : Obligations.FatalEventIsOnceAndLast := by
  unfold Obligations.FatalEventIsOnceAndLast
  intro cfg e k t h
  obtain ⟨-, hout, -, -⟩ := inv_iff.1 (inv_of_runFor (resetMeetsTheInvariant cfg e) h)
  obtain hms | ⟨ms, c, hms, hshape, hrs⟩ := messages_or_halted_of_outOk hout
  · exact ⟨(fatals_of_messages hms).trans_le (Nat.zero_le 1), fun c hc => absurd hc (fatal_notMem_of_messages hms c)⟩
  · rw [hshape]
    refine ⟨(fatals_append_fatal hms c).le, fun c' hc' => ?_⟩
    obtain rfl : c' = c := by simpa [fatal_notMem_of_messages hms c'] using hc'
    exact ⟨List.getLast?_concat, hrs⟩

end Sys2Proof.Proofs
end

section
/-!
PROOFS. The `rst` input (R205): what its step answers, and the new instance written out field by field.
-/

open Sys2Proof Sys2Proof.Machine Sys2Proof.Claims

namespace Sys2Proof.Proofs

/-- An `rst` input is read in no phase: the instance is replaced before any symbol is looked at. -/
theorem step_rst {s : State} {rest : List Stimulus} (he : s.env = .rst :: rest) :
    step s = .next ({ s with env := rest } : State).resetInstance := by
  simp only [step, fetch, he]

/-- Reset sets these six fields; the parameters, the queue, the write line and the draw count are the
old state's (log entry 6). -/
theorem resetInstance_eq (s : State) :
    s.resetInstance = { s with rs := .idle, pos := 0, out := [], board := Board.reset, tx := [], ret := [] } := rfl

/-- Settles O2: the step is the new instance of the state whose queue has lost the `rst`, whatever the reader was in. -/
theorem rstInputMakesNewInstance : Obligations.RstInputMakesNewInstance := by
  unfold Obligations.RstInputMakesNewInstance
  intro s rest he
  rw [step_rst he, resetInstance_eq]

end Sys2Proof.Proofs
end
